-- ==== Sys2Proof/Word.lean ====
section
/-! DEFINITION. The block's data units (00_scope.md R13): a byte is 8 bits, a word is 16 bits, the value
port of a scalar encode operation and the accumulator are 64 bits (R7, R171). -/

namespace Sys2Proof

/-- One byte, the unit of `hdr`, `mbuf` and of every length field (R13, R97). -/
abbrev Byte := BitVec 8

/-- One 16-bit word, the element of a word array (R13, R98). -/
abbrev Word := BitVec 16

/-- The 64-bit value port of the scalar encode operations (R171). -/
abbrev Port := BitVec 64

end Sys2Proof
end

