-- ==== Sys2Proof/Syntax.lean ====
section
/-! DEFINITION. The instructions: one constructor for each row of spec/opcode_table.json (30_encoding.md R101 for
the 52 operations, R90 to R94 for the five wire layouts), and the two forms in which the host hands one to the block:
a command (operation code beside a typed operand record, R100 and R104) or the bits of a wire layout. -/

namespace Sys2Proof

/-- One instruction. The operand types are those of R104. Numbers that an operation itself checks (a width, an
expected type, a field value) are natural numbers, so that an operand outside its range can be written down and meets
`BadOperand` (R103, R342). The value operand of a scalar encode operation is the whole 64-bit port (R171). -/
inductive Instr where
  -- buffer and global operations, 0x00 to 0x06
  | reset
  | dLoad (bytes : List Byte)
  | dSeek (off : Nat)
  | dTell
  | eNew
  | eTell
  | eRead
  -- scalar decode, 0x10 to 0x18
  | dBool
  | dU8
  | dU16
  | dS16
  | dU32
  | dS32
  | dU64
  | dS64
  | dBits (w : Nat)
  -- scalar encode, 0x20 to 0x28
  | eBool (val : Port)
  | eU8 (val : Port)
  | eU16 (val : Port)
  | eS16 (val : Port)
  | eU32 (val : Port)
  | eS32 (val : Port)
  | eU64 (val : Port)
  | eS64 (val : Port)
  | eBits (w : Nat) (val : Port)
  -- variable-width decode, 0x30 to 0x34
  | dArr8 (n : Nat)
  | dArr16 (n : Nat)
  | dStr (n : Nat)
  | dBitv (n : Nat)
  | dOpaque (endOff : Nat)
  -- variable-width encode, 0x40 to 0x43
  | eArr8 (bytes : List Byte)
  | eArr16 (words : List Word)
  | eStr (bytes : List Byte)
  | eBitv (bits : List Bool)
  -- envelope decode, 0x50 to 0x55
  | dMsghdr (exp : Nat)
  | dMsgend (endOff : Nat)
  | dParhdr
  | dParend (endOff : Nat)
  | dCustmsg (endOff : Nat)
  | dCustpar (endOff : Nat)
  -- envelope encode, 0x60 to 0x66
  | eMsghdr (ver type id : Nat)
  | eMsglen (start : Nat)
  | eTvhdr (type : Nat)
  | eTlvhdr (type : Nat)
  | eTlvlen (start : Nat)
  | eCustmsg (vendor subtype : Nat) (bytes : List Byte)
  | eCustpar (vendor subtype : Nat) (bytes : List Byte)
  -- reassembler, 0x70 to 0x74
  | rOpen
  | rFeed (b : Byte)
  | rFeedn (bytes : List Byte)
  | rClose
  | rStat
  -- wire layouts, R90 to R94: a structure arriving on the input byte stream (log entry 1)
  | msghdr (reserved ver : BitVec 3) (type : BitVec 10) (length id : BitVec 32)
  | tvhdr (type : BitVec 7)
  | tlvhdr (reserved : BitVec 5) (type : BitVec 10) (length : BitVec 16)
  | custmsgBody (vendor : BitVec 32) (subtype : BitVec 8) (tail : List Byte)
  | custparBody (vendor subtype : BitVec 32) (tail : List Byte)
deriving DecidableEq, Repr

/-- The typed operand record that travels beside an operation code (R100, R104): one port for each operand name of
R104. An operation reads the ports R101 lists for it and no other. -/
structure Operands where
  w : Nat := 0
  n : Nat := 0
  off : Nat := 0
  start : Nat := 0
  endOff : Nat := 0
  exp : Nat := 0
  ver : Nat := 0
  type : Nat := 0
  id : Nat := 0
  vendor : Nat := 0
  subtype : Nat := 0
  val : Port := 0
  b : Byte := 0
  bytes : List Byte := []
  words : List Word := []
  bits : List Bool := []
deriving DecidableEq, Repr

/-- What the host hands to the block: a command `(op, operands)` (R104), or a wire structure: `nbits` bits read as
one number whose most significant bit is the first bit on the wire (R63, R90 to R94), then the opaque bytes that follow a
custom body (R93, R94). -/
inductive Item where
  | command (op : BitVec 8) (operands : Operands)
  | wire (nbits w : Nat) (tail : List Byte)
deriving DecidableEq, Repr

end Sys2Proof
end

