-- ==== Sys2Proof/Decode.lean ====
section
/-! DEFINITION. The decoder, the encoder, and the reading of a word of spec/opcode_table.json. Commands:
30_encoding.md R100, R101, R103, R104. Wire layouts: R90 to R94, each read as one number whose most significant bit is
the first bit on the wire. -/

namespace Sys2Proof

/-- Why an item is no instruction. -/
inductive DecodeError where
  /-- The operation code is not in R101; the block answers `BadOperand` (R103). -/
  | illegalOp (op : BitVec 8)
  /-- The bits match no layout of R90 to R94. -/
  | notALayout (nbits w : Nat)
deriving DecidableEq, Repr

/-- The operation code map of R101: each operation reads its own ports of the operand record. -/
def decodeOp (op : BitVec 8) (o : Operands) : Option Instr :=
  match op.toNat with
  | 0x00 => some .reset
  | 0x01 => some (.dLoad o.bytes)
  | 0x02 => some (.dSeek o.off)
  | 0x03 => some .dTell
  | 0x04 => some .eNew
  | 0x05 => some .eTell
  | 0x06 => some .eRead
  | 0x10 => some .dBool
  | 0x11 => some .dU8
  | 0x12 => some .dU16
  | 0x13 => some .dS16
  | 0x14 => some .dU32
  | 0x15 => some .dS32
  | 0x16 => some .dU64
  | 0x17 => some .dS64
  | 0x18 => some (.dBits o.w)
  | 0x20 => some (.eBool o.val)
  | 0x21 => some (.eU8 o.val)
  | 0x22 => some (.eU16 o.val)
  | 0x23 => some (.eS16 o.val)
  | 0x24 => some (.eU32 o.val)
  | 0x25 => some (.eS32 o.val)
  | 0x26 => some (.eU64 o.val)
  | 0x27 => some (.eS64 o.val)
  | 0x28 => some (.eBits o.w o.val)
  | 0x30 => some (.dArr8 o.n)
  | 0x31 => some (.dArr16 o.n)
  | 0x32 => some (.dStr o.n)
  | 0x33 => some (.dBitv o.n)
  | 0x34 => some (.dOpaque o.endOff)
  | 0x40 => some (.eArr8 o.bytes)
  | 0x41 => some (.eArr16 o.words)
  | 0x42 => some (.eStr o.bytes)
  | 0x43 => some (.eBitv o.bits)
  | 0x50 => some (.dMsghdr o.exp)
  | 0x51 => some (.dMsgend o.endOff)
  | 0x52 => some .dParhdr
  | 0x53 => some (.dParend o.endOff)
  | 0x54 => some (.dCustmsg o.endOff)
  | 0x55 => some (.dCustpar o.endOff)
  | 0x60 => some (.eMsghdr o.ver o.type o.id)
  | 0x61 => some (.eMsglen o.start)
  | 0x62 => some (.eTvhdr o.type)
  | 0x63 => some (.eTlvhdr o.type)
  | 0x64 => some (.eTlvlen o.start)
  | 0x65 => some (.eCustmsg o.vendor o.subtype o.bytes)
  | 0x66 => some (.eCustpar o.vendor o.subtype o.bytes)
  | 0x70 => some .rOpen
  | 0x71 => some (.rFeed o.b)
  | 0x72 => some (.rFeedn o.bytes)
  | 0x73 => some .rClose
  | 0x74 => some .rStat
  | _ => none

/-- The layout that `nbits` wire bits form, read as the number `w`: R90 (80 bits), R91 (8 bits, first bit 1), R92
(32 bits, first bit 0), R93 (40 bits and a tail), R94 (64 bits and a tail). No other layout exists. -/
def decodeWire (nbits w : Nat) (tail : List Byte) : Option Instr :=
  if 2 ^ nbits ≤ w then none
  else if nbits = 80 ∧ tail = [] then
    some (.msghdr (BitVec.ofNat 3 (w / 2 ^ 77)) (BitVec.ofNat 3 (w / 2 ^ 74)) (BitVec.ofNat 10 (w / 2 ^ 64))
      (BitVec.ofNat 32 (w / 2 ^ 32)) (BitVec.ofNat 32 w))
  else if nbits = 8 ∧ tail = [] ∧ w / 2 ^ 7 = 1 then some (.tvhdr (BitVec.ofNat 7 w))
  else if nbits = 32 ∧ tail = [] ∧ w / 2 ^ 31 = 0 then
    some (.tlvhdr (BitVec.ofNat 5 (w / 2 ^ 26)) (BitVec.ofNat 10 (w / 2 ^ 16)) (BitVec.ofNat 16 w))
  else if nbits = 40 then some (.custmsgBody (BitVec.ofNat 32 (w / 2 ^ 8)) (BitVec.ofNat 8 w) tail)
  else if nbits = 64 then some (.custparBody (BitVec.ofNat 32 (w / 2 ^ 32)) (BitVec.ofNat 32 w) tail)
  else none

/-- The instruction an item stands for, or the name of what is wrong with it. -/
def decode : Item → Except DecodeError Instr
  | .command op o =>
    match decodeOp op o with
    | some i => .ok i
    | none => .error (.illegalOp op)
  | .wire nbits w tail =>
    match decodeWire nbits w tail with
    | some i => .ok i
    | none => .error (.notALayout nbits w)

/-- The item that stands for an instruction: its code of R101 with its own operand ports set and every other port
zero, or the bits of its layout. -/
def encode : Instr → Item
  | .reset => .command 0x00 {}
  | .dLoad bytes => .command 0x01 { bytes := bytes }
  | .dSeek off => .command 0x02 { off := off }
  | .dTell => .command 0x03 {}
  | .eNew => .command 0x04 {}
  | .eTell => .command 0x05 {}
  | .eRead => .command 0x06 {}
  | .dBool => .command 0x10 {}
  | .dU8 => .command 0x11 {}
  | .dU16 => .command 0x12 {}
  | .dS16 => .command 0x13 {}
  | .dU32 => .command 0x14 {}
  | .dS32 => .command 0x15 {}
  | .dU64 => .command 0x16 {}
  | .dS64 => .command 0x17 {}
  | .dBits w => .command 0x18 { w := w }
  | .eBool val => .command 0x20 { val := val }
  | .eU8 val => .command 0x21 { val := val }
  | .eU16 val => .command 0x22 { val := val }
  | .eS16 val => .command 0x23 { val := val }
  | .eU32 val => .command 0x24 { val := val }
  | .eS32 val => .command 0x25 { val := val }
  | .eU64 val => .command 0x26 { val := val }
  | .eS64 val => .command 0x27 { val := val }
  | .eBits w val => .command 0x28 { w := w, val := val }
  | .dArr8 n => .command 0x30 { n := n }
  | .dArr16 n => .command 0x31 { n := n }
  | .dStr n => .command 0x32 { n := n }
  | .dBitv n => .command 0x33 { n := n }
  | .dOpaque endOff => .command 0x34 { endOff := endOff }
  | .eArr8 bytes => .command 0x40 { bytes := bytes }
  | .eArr16 words => .command 0x41 { words := words }
  | .eStr bytes => .command 0x42 { bytes := bytes }
  | .eBitv bits => .command 0x43 { bits := bits }
  | .dMsghdr exp => .command 0x50 { exp := exp }
  | .dMsgend endOff => .command 0x51 { endOff := endOff }
  | .dParhdr => .command 0x52 {}
  | .dParend endOff => .command 0x53 { endOff := endOff }
  | .dCustmsg endOff => .command 0x54 { endOff := endOff }
  | .dCustpar endOff => .command 0x55 { endOff := endOff }
  | .eMsghdr ver type id => .command 0x60 { ver := ver, type := type, id := id }
  | .eMsglen start => .command 0x61 { start := start }
  | .eTvhdr type => .command 0x62 { type := type }
  | .eTlvhdr type => .command 0x63 { type := type }
  | .eTlvlen start => .command 0x64 { start := start }
  | .eCustmsg vendor subtype bytes => .command 0x65 { vendor := vendor, subtype := subtype, bytes := bytes }
  | .eCustpar vendor subtype bytes => .command 0x66 { vendor := vendor, subtype := subtype, bytes := bytes }
  | .rOpen => .command 0x70 {}
  | .rFeed b => .command 0x71 { b := b }
  | .rFeedn bytes => .command 0x72 { bytes := bytes }
  | .rClose => .command 0x73 {}
  | .rStat => .command 0x74 {}
  | .msghdr reserved ver type length id =>
    .wire 80 (reserved.toNat * 2 ^ 77 + ver.toNat * 2 ^ 74 + type.toNat * 2 ^ 64 + length.toNat * 2 ^ 32 + id.toNat) []
  | .tvhdr type => .wire 8 (2 ^ 7 + type.toNat) []
  | .tlvhdr reserved type length => .wire 32 (reserved.toNat * 2 ^ 26 + type.toNat * 2 ^ 16 + length.toNat) []
  | .custmsgBody vendor subtype tail => .wire 40 (vendor.toNat * 2 ^ 8 + subtype.toNat) tail
  | .custparBody vendor subtype tail => .wire 64 (vendor.toNat * 2 ^ 32 + subtype.toNat) tail

/-- The item that a word of spec/opcode_table.json stands for. An 8-bit word whose bit 7 is 0 is an operation code
with every operand port zero (R100); an 8-bit word whose bit 7 is 1 is the TV header row (R91), because no code of R101
has bit 7 set; every other width is a wire layout, read as one number whose bit 0 is its last bit on the wire. -/
def itemOfTableWord (nbits w : Nat) : Item :=
  if nbits = 8 ∧ w < 128 then .command (BitVec.ofNat 8 w) {} else .wire nbits w []

/-- The instruction the decoder reads from a word of spec/opcode_table.json. -/
def decodeTableWord (nbits w : Nat) : Option Instr :=
  match decode (itemOfTableWord nbits w) with
  | .ok i => some i
  | .error _ => none

end Sys2Proof
end

