-- ==== Sys2Proof/Machine/Bits.lean ====
section
/-! DEFINITION. Bit strings, bit order and byte order: the primitives of 00_scope.md R15 over a bit buffer, and
20_memory.md R62, R63. A bit buffer is the list of its bits, the bit at offset 0 first. -/

namespace Sys2Proof.Machine

/-- The unsigned value of a bit string whose first bit is its most significant: the accumulator loop of R150. -/
def bitsToNat (l : List Bool) : Nat :=
  l.foldl (fun acc b => acc * 2 + b.toNat) 0

/-- The `n` low bits of `v`, most significant first (R170, `MemWrite` of R15). -/
def natToBits : Nat → Nat → List Bool
  | 0, _ => []
  | n + 1, v => v.testBit n :: natToBits n v

/-- `MemRead(B, off, n)` (R15). -/
def memRead (bits : List Bool) (off n : Nat) : Nat :=
  bitsToNat ((bits.drop off).take n)

/-- `MemWrite(B, off, n, v)` (R15): bits that exist are overwritten, no bit is added. -/
def memWrite (bits : List Bool) (off n v : Nat) : List Bool :=
  bits.take off ++ natToBits n v ++ bits.drop (off + n)

/-- The bits of one byte, value bit 7 first (R62). -/
def byteToBits (b : Byte) : List Bool :=
  natToBits 8 b.toNat

/-- The bits of a byte sequence: bit `i` of byte `j` stands at offset `8*j + i` (R62, R132). -/
def bytesToBits (l : List Byte) : List Bool :=
  l.flatMap byteToBits

/-- The bits of a word sequence, each word big-endian (R98). -/
def wordsToBits (l : List Word) : List Bool :=
  l.flatMap fun w => natToBits 16 w.toNat

/-- `n` bytes from offset `off` (R192): element `k` is `MemRead(B, off + 8*k, 8)`. -/
def readBytes (bits : List Bool) (off n : Nat) : List Byte :=
  (List.range n).map fun k => BitVec.ofNat 8 (memRead bits (off + 8 * k) 8)

/-- `n` words from offset `off` (R193): element `k` is `MemRead(B, off + 16*k, 16)`. -/
def readWords (bits : List Bool) (off n : Nat) : List Word :=
  (List.range n).map fun k => BitVec.ofNat 16 (memRead bits (off + 16 * k) 16)

/-- `v[hi:lo]` (R14). -/
def slice (v hi lo : Nat) : Nat :=
  v / 2 ^ lo % 2 ^ (hi - lo + 1)

/-- `be16` (R15). -/
def be16 (b0 b1 : Byte) : Nat :=
  b0.toNat * 256 + b1.toNat

/-- `be32` (R15). -/
def be32 (b0 b1 b2 b3 : Byte) : Nat :=
  ((b0.toNat * 256 + b1.toNat) * 256 + b2.toNat) * 256 + b3.toNat

/-- `ceil8` (R15). -/
def ceil8 (n : Nat) : Nat :=
  8 * ((n + 7) / 8)

/-- The zero padding that follows a bit-vector of `n` bits on the wire (R195). -/
def padding (n : Nat) : List Bool :=
  List.replicate (ceil8 n - n) false

/-- `|a - b|` (R234, R239). -/
def distance (a b : Nat) : Nat :=
  (a - b) + (b - a)

end Sys2Proof.Machine
end

