-- ==== Sys2Proof/Config.lean ====
section
/-! DEFINITION. The configuration, which is the block's only control state (10_state.md R30): constant from
instantiation on, written by no operation and kept by `RESET`. A state carries its configuration as plain data, so a
statement about every state is a statement about every configuration. The values the spec leaves open at instantiation
(R9, R10, decisions D13 and D18) are opaque constants: nothing can be proved of them. -/

namespace Sys2Proof

/-- The five entries of R30. `none` as a capacity is the infinite capacity of R11; `tvLen` is the partial map of R9,
one entry for each 7-bit TV type. -/
structure Config where
  /-- `SUPPORTED_VERSION`, 3 bits (R8). -/
  supportedVersion : BitVec 3
  /-- `MAX_MSG_LEN`, in bytes (R10). -/
  maxMsgLen : Nat
  /-- `TV_LEN`: the value length, in bits, of each TV type; `none` where it is undefined (R9). -/
  tvLen : Vector (Option Nat) 128
  /-- `DCAP_BITS` (R11). -/
  dcapBits : Option Nat
  /-- `ECAP_BITS` (R11). -/
  ecapBits : Option Nat
deriving DecidableEq, Repr

/-- A capacity is a multiple of 8 or infinite (R11). -/
def Config.capWf (cap : Option Nat) : Bool :=
  match cap with
  | none => true
  | some n => n % 8 == 0

/-- The constraints the spec puts on the open parameters: R10 and R11. -/
def Config.wf (c : Config) : Bool :=
  decide (10 ≤ c.maxMsgLen) && decide (c.maxMsgLen ≤ 2 ^ 32 - 1) && Config.capWf c.dcapBits &&
    Config.capWf c.ecapBits

/-- OPEN (decision D18): how far the instantiated `MAX_MSG_LEN` lies above its least value 10. -/
opaque Config.maxMsgLenAboveTen : Fin 4294967286

/-- OPEN (decision D13): the instantiated `TV_LEN`. -/
opaque Config.tvLenTable : Vector (Option Nat) 128

/-- The configuration of the instance that `State.reset` describes. `SUPPORTED_VERSION` is 1 (R8); `MAX_MSG_LEN`
is any value of `10 .. 2^32 - 1` (R10) and `TV_LEN` any partial map (R9); the capacities are infinite, which R11 allows
a model to take (DESIGN CHOICE, log entry 3). -/
def Config.instantiated : Config where
  supportedVersion := 1
  maxMsgLen := 10 + Config.maxMsgLenAboveTen.val
  tvLen := Config.tvLenTable
  dcapBits := none
  ecapBits := none

end Sys2Proof
end

