-- ==== Sys2Proof/Machine/State.lean ====
section
/-! DEFINITION. The architectural state (10_state.md R22 to R30), the statuses and events (60_exceptions.md R331,
R351), the response of an operation (30_encoding.md R104), and the state after reset (R34). -/

namespace Sys2Proof.Machine

/-- The reassembler's state variable `rstate` (R26). -/
inductive RState where
  | awaitingHeader
  | awaitingBody
  | closed
deriving DecidableEq, Repr

/-- The cause of a framing fault (R297, R339). -/
inductive Cause where
  | badVersion
  | badType
  | lengthTooSmall
  | lengthTooLarge
deriving DecidableEq, Repr

/-- An event of the reassembler's output sequence (R29, R351). -/
inductive Event where
  | messageComplete (bytes : List Byte)
  | framingFault (cause : Cause)
deriving DecidableEq, Repr

/-- The statuses of R331; `malformedField`, `protocolError` and `timeout` are numbered and never raised (R333). -/
inductive Status where
  | ok
  | truncatedInput
  | truncatedMessage
  | malformedField
  | malformedParameter
  | malformedMessage
  | framingFault
  | protocolError
  | timeout
  | typeMismatch
  | badOperand
  | notByteAligned
  | overflow
  | closed
deriving DecidableEq, Repr

/-- The results of an operation (R101, R104). `absent` is a response without results: every operation that returns
none, and every operation whose status is not `OK` (R330), but for a framing fault, which carries its events. -/
inductive Results where
  | absent
  /-- `D.TELL`: the cursor and the buffer length. -/
  | cursor (cur len : Nat)
  /-- `E.TELL`: the encode length. -/
  | len (len : Nat)
  /-- An unsigned value. -/
  | uval (val : Nat)
  /-- A signed value. -/
  | sval (val : Int)
  | bytes (bytes : List Byte)
  | words (words : List Word)
  | bits (bits : List Bool)
  /-- `D.MSGHDR`. -/
  | msgHeader (ver type length id start endOff : Nat)
  /-- `D.PARHDR`, layout TV: no length. -/
  | tvHeader (type start endOff : Nat)
  /-- `D.PARHDR`, layout TLV. -/
  | tlvHeader (type length start endOff : Nat)
  /-- `D.CUSTMSG`, `D.CUSTPAR`. -/
  | custom (vendor subtype : Nat) (bytes : List Byte)
  /-- `E.MSGHDR`, `E.TLVHDR`. -/
  | start (start : Nat)
  /-- `E.MSGLEN`, `E.TLVLEN`. -/
  | length (length : Nat)
  | events (events : List Event)
  /-- `R.STAT`. -/
  | stat (rstate : RState) (hcnt mlen mcnt : Nat)
deriving DecidableEq, Repr

/-- The response of an operation (R104, R330). -/
structure Response where
  status : Status
  info : Nat
  results : Results
deriving DecidableEq, Repr

/-- The four header fields the reassembler parses (R296). -/
structure Header where
  ver : Nat
  type : Nat
  length : Nat
  id : Nat
deriving DecidableEq, Repr

/-- Everything the spec gives the block (R22 to R30), the commands the host has still to issue and the response of
the last operation. `dlen`, `elen` and `mcnt` are the lengths of `dbits`, `ebits` and `mbuf` (R22, R25, R28). -/
structure State where
  /-- The configuration (R30). -/
  cfg : Config
  /-- `DBUF.bits`, offset 0 first (R22). -/
  dbits : List Bool
  /-- `dcur`, the decode cursor (R22, R24). -/
  dcur : Nat
  /-- `EBUF.bits`, offset 0 first (R25). -/
  ebits : List Bool
  /-- `rstate` (R26). -/
  rstate : RState
  /-- `hdr[0..9]` (R27). -/
  hdr : Vector Byte 10
  /-- `hcnt` (R27). -/
  hcnt : Nat
  /-- `mbuf[0 .. mcnt-1]`, the bytes of the body buffer filled so far (R28). -/
  mbuf : List Byte
  /-- `mlen`, the declared size of the body buffer (R28). -/
  mlen : Nat
  /-- `rout`, the output event sequence, oldest first (R29). -/
  rout : List Event
  /-- The model's own: what the host has still to issue, next first (R6, log entry 2). -/
  pending : List Item
  /-- The model's own: the response of the last operation (R104, log entry 4). No operation reads it (R21). -/
  resp : Option Response
deriving DecidableEq, Repr

/-- `dlen` (R22). -/
def State.dlen (s : State) : Nat := s.dbits.length

/-- `elen`, which is also the encode cursor (R25). -/
def State.elen (s : State) : Nat := s.ebits.length

/-- `mcnt` (R28). -/
def State.mcnt (s : State) : Nat := s.mbuf.length

/-- No operation of the block stops the machine: every failure is a status in a response (R348, R358). The type has no
constructor, so that no step of this model is a fault. -/
inductive Fault where
deriving DecidableEq, Repr

/-- Why a step has no meaning. -/
inductive Refusal where
  /-- An arm of `exec` that has no meaning yet; no arm raises it. Safe: the machine stops. -/
  | notModelled (mnemonic : String)
  /-- Raised by `step` alone, for pending wire bits that match no layout of R90 to R94: they stand for no
  instruction. Safe: the machine stops. -/
  | notALayout (nbits w : Nat)
deriving DecidableEq, Repr

/-- The state after power-on (R34, R370): both buffers empty, the reassembler awaiting a header, no event put out.
`hdr`, which R34 leaves unspecified, holds zeros (DESIGN CHOICE, log entry 5). -/
def State.reset : State where
  cfg := Config.instantiated
  dbits := []
  dcur := 0
  ebits := []
  rstate := .awaitingHeader
  hdr := Vector.replicate 10 0
  hcnt := 0
  mbuf := []
  mlen := 0
  rout := []
  pending := []
  resp := none

end Sys2Proof.Machine
end

