-- ==== Sys2Proof/Machine/Operands.lean ====
section
/-! DEFINITION. Operand and result forms: the value port (42_scalar_encode.md R171), signed values
(41_scalar_decode.md R162), the widths and ranges an operation checks (30_encoding.md R103, R104), and the look-up of
`TV_LEN` (00_scope.md R9). -/

namespace Sys2Proof.Machine

/-- `val[w-1:0]`: the part of the 64-bit value port that a scalar encode operation uses; the upper bits are ignored
(R171). For a signed kind it is the two's-complement pattern `v mod 2^w`. -/
def portField (w : Nat) (val : Port) : Nat :=
  val.toNat % 2 ^ w

/-- `signed_w(acc)` (R162). -/
def signedOf (w acc : Nat) : Int :=
  if acc < 2 ^ (w - 1) then (acc : Int) else (acc : Int) - 2 ^ w

/-- The widths a bit field may have (R160, R180). -/
def legalWidth (w : Nat) : Bool :=
  decide (1 ≤ w) && decide (w ≤ 64)

/-- The first of the given operands that passes the greatest value of its field (R261, R271, R272; the order is that of
the pseudocode, R347, log entry 6). -/
def firstMisfit : List (Nat × Nat) → Option Nat
  | [] => none
  | (v, greatest) :: rest => if greatest < v then some v else firstMisfit rest

/-- `TV_LEN(type)`, `none` where it is undefined (R9). -/
def tvLenOf (cfg : Config) (type : Nat) : Option Nat :=
  (cfg.tvLen[type]?).getD none

end Sys2Proof.Machine
end

