-- ==== Sys2Proof/Machine/Flags.lean ====
section
/-! DEFINITION. The block has no flags, condition codes or predicates (10_state.md R21). What stands in their place is
computed here: the numbers of the statuses and causes (60_exceptions.md R331, R339), and the two tests on which statuses
rest, the capacity test (R11, R182) and the header validation (47_reassembler.md R297). -/

namespace Sys2Proof.Machine

/-- The status codes of R331. -/
def Status.code : Status → Nat
  | .ok => 0
  | .truncatedInput => 1
  | .truncatedMessage => 2
  | .malformedField => 3
  | .malformedParameter => 4
  | .malformedMessage => 5
  | .framingFault => 6
  | .protocolError => 7
  | .timeout => 8
  | .typeMismatch => 16
  | .badOperand => 17
  | .notByteAligned => 18
  | .overflow => 19
  | .closed => 20

/-- The cause numbers of R339. -/
def Cause.number : Cause → Nat
  | .badVersion => 1
  | .badType => 2
  | .lengthTooSmall => 3
  | .lengthTooLarge => 4

/-- A buffer of `n` bits does not fit the capacity; an infinite capacity fits every length (R11). -/
def exceeds (cap : Option Nat) (n : Nat) : Bool :=
  match cap with
  | none => false
  | some c => decide (c < n)

/-- `Validate(ver, type, length)`: the first failing condition, in the order of R297. -/
def validate (cfg : Config) (h : Header) : Option Cause :=
  if h.ver ≠ cfg.supportedVersion.toNat then some .badVersion
  else if 127 < h.type ∧ h.type ≠ 1023 then some .badType
  else if h.length < 10 then some .lengthTooSmall
  else if cfg.maxMsgLen < h.length then some .lengthTooLarge
  else none

end Sys2Proof.Machine
end

