-- ==== Sys2Proof/Machine/Ops.lean ====
section
/-! DEFINITION. The operations that the meanings share: the updates of the state, the outcome of an operation in
progress, the response (the block's whole exception entry, 60_exceptions.md R330 and R348; there is no return from it,
R350), the field read and append (R150, R170), the array reads and appends (R190, R210), the patch (R263, R269) and the
byte intake of the reassembler (R292, R299). -/

namespace Sys2Proof.Machine

/-! ## Updates of the state -/

/-- A new decode buffer with its cursor (R132). -/
def State.setDbuf (s : State) (bits : List Bool) (cur : Nat) : State :=
  { s with dbits := bits, dcur := cur }

/-- `dcur <- cur`. -/
def State.setDcur (s : State) (cur : Nat) : State :=
  { s with dcur := cur }

/-- The contents of the encode buffer. -/
def State.setEbits (s : State) (bits : List Bool) : State :=
  { s with ebits := bits }

/-- The contents of the header buffer and their count (R27). -/
def State.setHdr (s : State) (hdr : Vector Byte 10) (hcnt : Nat) : State :=
  { s with hdr := hdr, hcnt := hcnt }

/-- `hcnt <- 0`; the header bytes stay where they are and are never read again (R27). -/
def State.dropHdr (s : State) : State :=
  { s with hcnt := 0 }

/-- The reassembler's state and its body buffer (R26, R28). -/
def State.setBody (s : State) (rstate : RState) (mbuf : List Byte) (mlen : Nat) : State :=
  { s with rstate := rstate, mbuf := mbuf, mlen := mlen }

/-- `emit e` (R15): the event goes to the end of `rout`. -/
def State.emit (s : State) (e : Event) : State :=
  { s with rout := s.rout ++ [e] }

/-- The response of the operation that ends. -/
def State.setResp (s : State) (r : Response) : State :=
  { s with resp := some r }

/-- What the host has still to issue. -/
def State.setPending (s : State) (p : List Item) : State :=
  { s with pending := p }

/-- The reassembler empty and in the state given: R130, R291, R301. -/
def State.clearReassembler (s : State) (rstate : RState) : State :=
  (s.dropHdr).setBody rstate [] 0

/-! ## Canonical form of the buffers -/

/-- The canonical form of the two bit buffers (R22, R25): `DBUF` holds whole bytes, the cursor stands inside it, and
neither buffer passes its capacity. A buffer is the list of its bits, one entry for each offset below its length and none
above, so equal buffers are equal lists. -/
def Memory.wf (s : State) : Bool :=
  s.dlen % 8 == 0 && decide (s.dcur ≤ s.dlen) && !exceeds s.cfg.dcapBits s.dlen && !exceeds s.cfg.ecapBits s.elen

/-! ## An operation in progress -/

/-- A part of an operation: it returned `a` and left the state `s`, or it raised a status, and the changes made
before the raise stay (R15). -/
inductive Ret (α : Type) where
  | ok (a : α) (s : State)
  | raised (status : Status) (info : Nat) (s : State)

/-- The next part runs only if the one before returned (R230). -/
def Ret.andThen {α β : Type} (r : Ret α) (f : α → State → Ret β) : Ret β :=
  match r with
  | .ok a s => f a s
  | .raised status info s => .raised status info s

/-- The end of an operation: one response, `OK` with info 0 and the results, or the raised status with its info and
no results (R330, R331). Nothing else happens on a failure (R348). -/
def Ret.respond (r : Ret Results) : Host.Outcome State Fault Refusal :=
  match r with
  | .ok results s => .next (s.setResp ⟨.ok, 0, results⟩)
  | .raised status info s => .next (s.setResp ⟨status, info, .absent⟩)

/-- An operation code that R101 does not list: `BadOperand` with the code, and no state change (R103, R342). -/
def illegalOp (op : BitVec 8) (s : State) : Host.Outcome State Fault Refusal :=
  Ret.respond (.raised .badOperand op.toNat s)

/-! ## Decode side -/

/-- `need` bits are at hand, or `TruncatedInput` with the number of missing bits (R151, R190). -/
def requireBits (need : Nat) (s : State) : Ret Unit :=
  if s.dlen < s.dcur + need then .raised .truncatedInput (s.dcur + need - s.dlen) s else .ok () s

/-- `ReadField(w)` (R150): the value of the next `w` bits; the cursor passes them. -/
def readField (w : Nat) (s : State) : Ret Nat :=
  (requireBits w s).andThen fun _ s => .ok (memRead s.dbits s.dcur w) (s.setDcur (s.dcur + w))

/-- A scalar read of an unsigned kind of width `w` (R96, R150). -/
def readUnsigned (w : Nat) (s : State) : Ret Results :=
  (readField w s).andThen fun v s => .ok (.uval v) s

/-- A scalar read of a signed kind of width `w` (R96, R162). -/
def readSigned (w : Nat) (s : State) : Ret Results :=
  (readField w s).andThen fun v s => .ok (.sval (signedOf w v)) s

/-- The read of a variable-width kind (R190): all `need` bits or nothing. -/
def readWhole (need : Nat) (out : List Bool → Nat → Results) (s : State) : Ret Results :=
  (requireBits need s).andThen fun _ s => .ok (out s.dbits s.dcur) (s.setDcur (s.dcur + need))

/-- The bytes from the cursor to `endOff`, its three checks in the order of R197. -/
def readOpaque (endOff : Nat) (s : State) : Ret (List Byte) :=
  if endOff < s.dcur then .raised .badOperand endOff s
  else if s.dlen < endOff then .raised .truncatedInput (endOff - s.dlen) s
  else if (endOff - s.dcur) % 8 ≠ 0 then .raised .notByteAligned ((endOff - s.dcur) % 8) s
  else .ok (readBytes s.dbits s.dcur ((endOff - s.dcur) / 8)) (s.setDcur endOff)

/-- The generic custom body (R242, R243): vendor, a subtype of `w` bits, and the bytes to `endOff`. -/
def readCustom (w endOff : Nat) (s : State) : Ret Results :=
  (readField 32 s).andThen fun vendor s =>
  (readField w s).andThen fun subtype s =>
  (readOpaque endOff s).andThen fun bytes s =>
  .ok (.custom vendor subtype bytes) s

/-- The cursor stands at `endOff`, or `status` with the distance between them (R234, R239). -/
def requireAt (endOff : Nat) (status : Status) (s : State) : Ret Results :=
  if s.dcur ≠ endOff then .raised status (distance endOff s.dcur) s else .ok .absent s

/-! ## Encode side -/

/-- The bits go to the end of `EBUF`, or `Overflow` with the length that would have been reached and nothing is
appended (R170, R182, R210). -/
def appendBits (bits : List Bool) (s : State) : Ret Results :=
  if exceeds s.cfg.ecapBits (s.elen + bits.length) then .raised .overflow (s.elen + bits.length) s
  else .ok .absent (s.setEbits (s.ebits ++ bits))

/-- `AppendField(w, p)` for the pattern of the value port (R170, R171). -/
def appendField (w : Nat) (val : Port) (s : State) : Ret Results :=
  appendBits (natToBits w (portField w val)) s

/-- A header operation: append, and return where the header starts (R261, R267). -/
def appendHeader (bits : List Bool) (s : State) : Ret Results :=
  (appendBits bits s).andThen fun _ t => .ok (.start s.elen) t

/-- Refuse the first operand that does not fit its field (R261, R266, R267, R271, R272). -/
def requireFit (operands : List (Nat × Nat)) (s : State) : Ret Unit :=
  match firstMisfit operands with
  | some v => .raised .badOperand v s
  | none => .ok () s

/-- The patch of a length field (R263, R269): a header of `hdrBits` bits must lie at `start`, the structure must be
whole bytes, its byte count must be at most `greatest`; then the `w` bits at `start + 16` take the count. -/
def patchLength (hdrBits w greatest start : Nat) (s : State) : Ret Results :=
  if s.elen < start + hdrBits then .raised .badOperand start s
  else if (s.elen - start) % 8 ≠ 0 then .raised .notByteAligned ((s.elen - start) % 8) s
  else if greatest < (s.elen - start) / 8 then .raised .overflow ((s.elen - start) / 8) s
  else .ok (.length ((s.elen - start) / 8)) (s.setEbits (memWrite s.ebits (start + 16) w ((s.elen - start) / 8)))

/-! ## Wire layouts as bit strings -/

/-- The message header, fields in wire order (R90). -/
def msghdrBits (reserved ver type length id : Nat) : List Bool :=
  natToBits 3 reserved ++ natToBits 3 ver ++ natToBits 10 type ++ natToBits 32 length ++ natToBits 32 id

/-- The TV parameter header (R91). -/
def tvhdrBits (type : Nat) : List Bool :=
  natToBits 1 1 ++ natToBits 7 type

/-- The TLV parameter header; its first bit is the selector 0 (R92). -/
def tlvhdrBits (reserved type length : Nat) : List Bool :=
  natToBits 1 0 ++ natToBits 5 reserved ++ natToBits 10 type ++ natToBits 16 length

/-- The body of a custom message or parameter with a subtype of `w` bits (R93, R94). -/
def customBits (vendor w subtype : Nat) (tail : List Byte) : List Bool :=
  natToBits 32 vendor ++ natToBits w subtype ++ bytesToBits tail

/-- The bytes of a bit string of whole bytes, first bit first (R62). -/
def bitsToBytes (bits : List Bool) : List Byte :=
  readBytes bits 0 (bits.length / 8)

/-! ## Reassembler -/

/-- The outcome of a byte intake: a status with its info, the events put out, and the state (R292). -/
structure Feed where
  status : Status
  info : Nat
  events : List Event
  state : State

/-- `ParseHeader(hdr)` (R296). -/
def parseHeader (h : List Byte) : Header :=
  let word := be16 (h.getD 0 0) (h.getD 1 0)
  { ver := slice word 12 10
    type := slice word 9 0
    length := be32 (h.getD 2 0) (h.getD 3 0) (h.getD 4 0) (h.getD 5 0)
    id := be32 (h.getD 6 0) (h.getD 7 0) (h.getD 8 0) (h.getD 9 0) }

/-- The tenth header byte has arrived in `hdr` (R292, R297, R298, R303). -/
def finishHeader (hdr : Vector Byte 10) (s : State) : Feed :=
  let t := s.setHdr hdr 0
  match validate s.cfg (parseHeader hdr.toList) with
  | some c =>
    ⟨.framingFault, c.number, [.framingFault c], (t.setBody .closed s.mbuf s.mlen).emit (.framingFault c)⟩
  | none =>
    if (parseHeader hdr.toList).length = 10 then
      ⟨.ok, 0, [.messageComplete hdr.toList], t.emit (.messageComplete hdr.toList)⟩
    else ⟨.ok, 0, [], t.setBody .awaitingBody hdr.toList (parseHeader hdr.toList).length⟩

/-- A byte fed in `AwaitingHeader` (R293). -/
def feedHeader (b : Byte) (s : State) : Feed :=
  if s.hcnt + 1 = 10 then finishHeader (s.hdr.setIfInBounds s.hcnt b) s
  else ⟨.ok, 0, [], s.setHdr (s.hdr.setIfInBounds s.hcnt b) (s.hcnt + 1)⟩

/-- A byte fed in `AwaitingBody` (R294). -/
def feedBody (b : Byte) (s : State) : Feed :=
  if s.mcnt + 1 = s.mlen then
    ⟨.ok, 0, [.messageComplete (s.mbuf ++ [b])],
      (s.emit (.messageComplete (s.mbuf ++ [b]))).setBody .awaitingHeader [] 0⟩
  else ⟨.ok, 0, [], s.setBody .awaitingBody (s.mbuf ++ [b]) s.mlen⟩

/-- `R.FEED b` (R292). -/
def feedByte (b : Byte) (s : State) : Feed :=
  match s.rstate with
  | .closed => ⟨.closed, 1, [], s⟩
  | .awaitingHeader => feedHeader b s
  | .awaitingBody => feedBody b s

/-- The loop of `R.FEEDN` (R299): byte by byte, stopped at a framing fault. -/
def feedAll : List Byte → State → Feed
  | [], s => ⟨.ok, 0, [], s⟩
  | b :: rest, s =>
    let r := feedByte b s
    if r.status = .framingFault then r
    else
      let q := feedAll rest r.state
      { q with events := r.events ++ q.events }

/-- `R.FEEDN bytes` (R299): all bytes are discarded when the reassembler is closed. -/
def feedChunk (bytes : List Byte) (s : State) : Feed :=
  if s.rstate = .closed then ⟨.closed, bytes.length, [], s⟩ else feedAll bytes s

/-- The end of an intake: the events go with the response when the status is `OK` or `FramingFault` (R330), none when
the reassembler is closed (R295). -/
def Feed.respond (r : Feed) : Host.Outcome State Fault Refusal :=
  .next (r.state.setResp ⟨r.status, r.info, if r.status = .closed then .absent else .events r.events⟩)

end Sys2Proof.Machine
end

