-- ==== Sys2Proof/Machine/BufferOps.lean ====
section
/-! DEFINITION. The buffer and global operations (40_buffer_ops.md R130 to R141). -/

namespace Sys2Proof.Machine

/-- `RESET` (R130): every variable of the block at its reset value; the configuration and `rout` stay (R34), and `hdr` is
not read while `hcnt` is 0. -/
def execReset (s : State) : Host.Outcome State Fault Refusal :=
  Ret.respond (.ok .absent (((s.setDbuf [] 0).setEbits []).clearReassembler .awaitingHeader))

/-- `D.LOAD bytes` (R132). -/
def execDLoad (bytes : List Byte) (s : State) : Host.Outcome State Fault Refusal :=
  Ret.respond <|
    if exceeds s.cfg.dcapBits (8 * bytes.length) then .raised .overflow (8 * bytes.length) s
    else .ok .absent (s.setDbuf (bytesToBits bytes) 0)

/-- `D.SEEK off` (R133). -/
def execDSeek (off : Nat) (s : State) : Host.Outcome State Fault Refusal :=
  Ret.respond <|
    if s.dlen < off then .raised .badOperand off s else .ok .absent (s.setDcur off)

/-- `D.TELL` (R134). -/
def execDTell (s : State) : Host.Outcome State Fault Refusal :=
  Ret.respond (.ok (.cursor s.dcur s.dlen) s)

/-- `E.NEW` (R139). -/
def execENew (s : State) : Host.Outcome State Fault Refusal :=
  Ret.respond (.ok .absent (s.setEbits []))

/-- `E.TELL` (R140). -/
def execETell (s : State) : Host.Outcome State Fault Refusal :=
  Ret.respond (.ok (.len s.elen) s)

/-- `E.READ` (R141). -/
def execERead (s : State) : Host.Outcome State Fault Refusal :=
  Ret.respond <|
    if s.elen % 8 ≠ 0 then .raised .notByteAligned (s.elen % 8) s
    else .ok (.bytes (readBytes s.ebits 0 (s.elen / 8))) s


end Sys2Proof.Machine
end

