-- ==== Sys2Proof/Machine/EnvelopeDecode.lean ====
section
/-! DEFINITION. The envelope decode operations (45_envelope_decode.md R230 to R243). -/

namespace Sys2Proof.Machine

/-- `D.MSGHDR exp` (R231), its checks in the order of R233; on a mismatch the cursor goes back by 16 bits (R232). -/
def execDMsghdr (exp : Nat) (s : State) : Host.Outcome State Fault Refusal :=
  Ret.respond <|
    if 1023 < exp then .raised .badOperand exp s
    else
      let start := s.dcur
      (readField 16 s).andThen fun word s =>
      let ver := slice word 12 10
      let type := slice word 9 0
      if type ≠ exp then .raised .typeMismatch type (s.setDcur (s.dcur - 16))
      else
        (readField 32 s).andThen fun length s =>
        (readField 32 s).andThen fun id s =>
        let endOff := start + 8 * length
        if length < 10 then .raised .malformedMessage length s
        else if s.dlen < endOff then .raised .truncatedMessage (endOff - s.dlen) s
        else .ok (.msgHeader ver type length id start endOff) s

/-- `D.MSGEND end` (R234). -/
def execDMsgend (endOff : Nat) (s : State) : Host.Outcome State Fault Refusal :=
  (requireAt endOff .malformedMessage s).respond

/-- `D.PARHDR` (R235): the first bit selects the layout; details in R236, R237, R238. -/
def execDParhdr (s : State) : Host.Outcome State Fault Refusal :=
  Ret.respond <|
    let start := s.dcur
    if s.dlen < s.dcur + 1 then .raised .truncatedInput 1 s
    else if memRead s.dbits s.dcur 1 = 1 then
      (readField 8 s).andThen fun b s =>
      let type := slice b 6 0
      match tvLenOf s.cfg type with
      | none => .raised .malformedParameter type s
      | some len => .ok (.tvHeader type start (s.dcur + len)) s
    else
      (readField 16 s).andThen fun word s =>
      let type := slice word 9 0
      (readField 16 s).andThen fun length s =>
      if length < 4 then .raised .malformedParameter length s
      else .ok (.tlvHeader type length start (start + 8 * length)) s

/-- `D.PAREND end` (R239). -/
def execDParend (endOff : Nat) (s : State) : Host.Outcome State Fault Refusal :=
  (requireAt endOff .malformedParameter s).respond

/-- `D.CUSTMSG end` (R242): the subtype has 8 bits. -/
def execDCustmsg (endOff : Nat) (s : State) : Host.Outcome State Fault Refusal :=
  (readCustom 8 endOff s).respond

/-- `D.CUSTPAR end` (R243): the subtype has 32 bits. -/
def execDCustpar (endOff : Nat) (s : State) : Host.Outcome State Fault Refusal :=
  (readCustom 32 endOff s).respond


end Sys2Proof.Machine
end

