-- ==== Sys2Proof/Machine/EnvelopeEncode.lean ====
section
/-! DEFINITION. The envelope encode operations (46_envelope_encode.md R260 to R272). Each makes all its checks before
it writes (R260). -/

namespace Sys2Proof.Machine

/-- `E.MSGHDR ver, type, id` (R261): reserved bits 0, placeholder length 0 (R262, R265). -/
def execEMsghdr (ver type id : Nat) (s : State) : Host.Outcome State Fault Refusal :=
  Ret.respond <|
    (requireFit [(ver, 7), (type, 1023), (id, 2 ^ 32 - 1)] s).andThen fun _ s =>
    appendHeader (msghdrBits 0 ver type 0 id) s

/-- `E.MSGLEN start` (R263, R264). -/
def execEMsglen (start : Nat) (s : State) : Host.Outcome State Fault Refusal :=
  (patchLength 80 32 (2 ^ 32 - 1) start s).respond

/-- `E.TVHDR type` (R266). -/
def execETvhdr (type : Nat) (s : State) : Host.Outcome State Fault Refusal :=
  Ret.respond <|
    (requireFit [(type, 127)] s).andThen fun _ s =>
    appendBits (tvhdrBits type) s

/-- `E.TLVHDR type` (R267): reserved bits 0, placeholder length 0 (R262, R265). -/
def execETlvhdr (type : Nat) (s : State) : Host.Outcome State Fault Refusal :=
  Ret.respond <|
    (requireFit [(type, 1023)] s).andThen fun _ s =>
    appendHeader (tlvhdrBits 0 type 0) s

/-- `E.TLVLEN start` (R269, R270). -/
def execETlvlen (start : Nat) (s : State) : Host.Outcome State Fault Refusal :=
  (patchLength 32 16 65535 start s).respond

/-- `E.CUSTMSG vendor, subtype, bytes` (R271). -/
def execECustmsg (vendor subtype : Nat) (bytes : List Byte) (s : State) : Host.Outcome State Fault Refusal :=
  Ret.respond <|
    (requireFit [(vendor, 2 ^ 32 - 1), (subtype, 255)] s).andThen fun _ s =>
    appendBits (customBits vendor 8 subtype bytes) s

/-- `E.CUSTPAR vendor, subtype, bytes` (R272). -/
def execECustpar (vendor subtype : Nat) (bytes : List Byte) (s : State) : Host.Outcome State Fault Refusal :=
  Ret.respond <|
    (requireFit [(vendor, 2 ^ 32 - 1), (subtype, 2 ^ 32 - 1)] s).andThen fun _ s =>
    appendBits (customBits vendor 32 subtype bytes) s


end Sys2Proof.Machine
end

