-- ==== Sys2Proof/Machine/Reassembler.lean ====
section
/-! DEFINITION. The message reassembler operations (47_reassembler.md R290 to R303). -/

namespace Sys2Proof.Machine

/-- `R.OPEN` (R291). -/
def execROpen (s : State) : Host.Outcome State Fault Refusal :=
  Ret.respond (.ok .absent (s.clearReassembler .awaitingHeader))

/-- `R.FEED b` (R292). -/
def execRFeed (b : Byte) (s : State) : Host.Outcome State Fault Refusal :=
  (feedByte b s).respond

/-- `R.FEEDN bytes` (R299). -/
def execRFeedn (bytes : List Byte) (s : State) : Host.Outcome State Fault Refusal :=
  (feedChunk bytes s).respond

/-- `R.CLOSE` (R301). -/
def execRClose (s : State) : Host.Outcome State Fault Refusal :=
  Ret.respond (.ok .absent (s.clearReassembler .closed))

/-- `R.STAT` (R302). -/
def execRStat (s : State) : Host.Outcome State Fault Refusal :=
  Ret.respond (.ok (.stat s.rstate s.hcnt s.mlen s.mcnt) s)


end Sys2Proof.Machine
end

