-- ==== Sys2Proof/Machine/ScalarDecode.lean ====
section
/-! DEFINITION. The scalar decode operations (41_scalar_decode.md R152 to R160). -/

namespace Sys2Proof.Machine

/-- `D.BOOL` (R152). -/
def execDBool (s : State) : Host.Outcome State Fault Refusal :=
  (readUnsigned 1 s).respond

/-- `D.U8` (R153). -/
def execDU8 (s : State) : Host.Outcome State Fault Refusal :=
  (readUnsigned 8 s).respond

/-- `D.U16` (R154). -/
def execDU16 (s : State) : Host.Outcome State Fault Refusal :=
  (readUnsigned 16 s).respond

/-- `D.S16` (R155). -/
def execDS16 (s : State) : Host.Outcome State Fault Refusal :=
  (readSigned 16 s).respond

/-- `D.U32` (R156). -/
def execDU32 (s : State) : Host.Outcome State Fault Refusal :=
  (readUnsigned 32 s).respond

/-- `D.S32` (R157). -/
def execDS32 (s : State) : Host.Outcome State Fault Refusal :=
  (readSigned 32 s).respond

/-- `D.U64` (R158). -/
def execDU64 (s : State) : Host.Outcome State Fault Refusal :=
  (readUnsigned 64 s).respond

/-- `D.S64` (R159). -/
def execDS64 (s : State) : Host.Outcome State Fault Refusal :=
  (readSigned 64 s).respond

/-- `D.BITS w` (R160): the width is checked first. -/
def execDBits (w : Nat) (s : State) : Host.Outcome State Fault Refusal :=
  Ret.respond <|
    if !legalWidth w then .raised .badOperand w s else readUnsigned w s


end Sys2Proof.Machine
end

