-- ==== Sys2Proof/Machine/ScalarEncode.lean ====
section
/-! DEFINITION. The scalar encode operations (42_scalar_encode.md R172 to R180). -/

namespace Sys2Proof.Machine

/-- `E.BOOL val` (R172). -/
def execEBool (val : Port) (s : State) : Host.Outcome State Fault Refusal :=
  (appendField 1 val s).respond

/-- `E.U8 val` (R173). -/
def execEU8 (val : Port) (s : State) : Host.Outcome State Fault Refusal :=
  (appendField 8 val s).respond

/-- `E.U16 val` (R174). -/
def execEU16 (val : Port) (s : State) : Host.Outcome State Fault Refusal :=
  (appendField 16 val s).respond

/-- `E.S16 val` (R175). The pattern of a signed operand is `val mod 2^16` (R171). -/
def execES16 (val : Port) (s : State) : Host.Outcome State Fault Refusal :=
  (appendField 16 val s).respond

/-- `E.U32 val` (R176). -/
def execEU32 (val : Port) (s : State) : Host.Outcome State Fault Refusal :=
  (appendField 32 val s).respond

/-- `E.S32 val` (R177). The pattern of a signed operand is `val mod 2^32` (R171). -/
def execES32 (val : Port) (s : State) : Host.Outcome State Fault Refusal :=
  (appendField 32 val s).respond

/-- `E.U64 val` (R178). -/
def execEU64 (val : Port) (s : State) : Host.Outcome State Fault Refusal :=
  (appendField 64 val s).respond

/-- `E.S64 val` (R179). The pattern of a signed operand is `val mod 2^64` (R171). -/
def execES64 (val : Port) (s : State) : Host.Outcome State Fault Refusal :=
  (appendField 64 val s).respond

/-- `E.BITS w, val` (R180): the width is checked first. -/
def execEBits (w : Nat) (val : Port) (s : State) : Host.Outcome State Fault Refusal :=
  Ret.respond <|
    if !legalWidth w then .raised .badOperand w s else appendField w val s


end Sys2Proof.Machine
end

