-- ==== Sys2Proof/Machine/VariableDecode.lean ====
section
/-! DEFINITION. The variable-width decode operations (43_variable_decode.md R192 to R198). -/

namespace Sys2Proof.Machine

/-- `D.ARR8 n` (R192). -/
def execDArr8 (n : Nat) (s : State) : Host.Outcome State Fault Refusal :=
  (readWhole (8 * n) (fun bits cur => .bytes (readBytes bits cur n)) s).respond

/-- `D.ARR16 n` (R193). -/
def execDArr16 (n : Nat) (s : State) : Host.Outcome State Fault Refusal :=
  (readWhole (16 * n) (fun bits cur => .words (readWords bits cur n)) s).respond

/-- `D.STR n` (R194): the bytes as they are. -/
def execDStr (n : Nat) (s : State) : Host.Outcome State Fault Refusal :=
  (readWhole (8 * n) (fun bits cur => .bytes (readBytes bits cur n)) s).respond

/-- `D.BITV n` (R195, R196): `n` bits are returned, `ceil8 n` are passed, the padding is not looked at. -/
def execDBitv (n : Nat) (s : State) : Host.Outcome State Fault Refusal :=
  (readWhole (ceil8 n) (fun bits cur => .bits ((bits.drop cur).take n)) s).respond

/-- `D.OPAQUE end` (R197, R198). -/
def execDOpaque (endOff : Nat) (s : State) : Host.Outcome State Fault Refusal :=
  ((readOpaque endOff s).andThen fun bytes t => .ok (.bytes bytes) t).respond


end Sys2Proof.Machine
end

