-- ==== Sys2Proof/Machine/VariableEncode.lean ====
section
/-! DEFINITION. The variable-width encode operations (44_variable_encode.md R211 to R214). -/

namespace Sys2Proof.Machine

/-- `E.ARR8 bytes` (R211). -/
def execEArr8 (bytes : List Byte) (s : State) : Host.Outcome State Fault Refusal :=
  (appendBits (bytesToBits bytes) s).respond

/-- `E.ARR16 words` (R212). -/
def execEArr16 (words : List Word) (s : State) : Host.Outcome State Fault Refusal :=
  (appendBits (wordsToBits words) s).respond

/-- `E.STR bytes` (R213): no terminator, no padding. -/
def execEStr (bytes : List Byte) (s : State) : Host.Outcome State Fault Refusal :=
  (appendBits (bytesToBits bytes) s).respond

/-- `E.BITV bits` (R214): the bits, then zeros counted from the vector's own length. -/
def execEBitv (bits : List Bool) (s : State) : Host.Outcome State Fault Refusal :=
  (appendBits (bits ++ padding bits.length) s).respond


end Sys2Proof.Machine
end

