-- ==== Sys2Proof/Machine/WireLayout.lean ====
section
/-! DEFINITION. The five wire layouts of 30_encoding.md R90 to R94. They are no operations of R101: a layout is
bytes on the wire, and the wire reaches the block as the input byte stream of 20_memory.md R60, which `R.FEED` and `R.FEEDN`
consume. So the meaning of a layout row is that its bytes, in wire order, arrive on that stream: each is the `R.FEEDN` of its
own bytes, and adds no behaviour to the block (DESIGN CHOICE, log entry 1). -/

namespace Sys2Proof.Machine

/-- A message header arrives (R90): ten bytes. -/
def execMsghdr (reserved ver : BitVec 3) (type : BitVec 10) (length id : BitVec 32) (s : State) : Host.Outcome State Fault Refusal :=
  (feedChunk (bitsToBytes (msghdrBits reserved.toNat ver.toNat type.toNat length.toNat id.toNat)) s).respond

/-- A TV parameter header arrives (R91): one byte. -/
def execTvhdr (type : BitVec 7) (s : State) : Host.Outcome State Fault Refusal :=
  (feedChunk (bitsToBytes (tvhdrBits type.toNat)) s).respond

/-- A TLV parameter header arrives (R92): four bytes. -/
def execTlvhdr (reserved : BitVec 5) (type : BitVec 10) (length : BitVec 16) (s : State) : Host.Outcome State Fault Refusal :=
  (feedChunk (bitsToBytes (tlvhdrBits reserved.toNat type.toNat length.toNat)) s).respond

/-- The body of a custom message arrives (R93): five bytes and the payload. -/
def execCustmsgBody (vendor : BitVec 32) (subtype : BitVec 8) (tail : List Byte) (s : State) : Host.Outcome State Fault Refusal :=
  (feedChunk (bitsToBytes (customBits vendor.toNat 8 subtype.toNat tail)) s).respond

/-- The value of a custom parameter arrives (R94): eight bytes and the payload. -/
def execCustparBody (vendor subtype : BitVec 32) (tail : List Byte) (s : State) : Host.Outcome State Fault Refusal :=
  (feedChunk (bitsToBytes (customBits vendor.toNat 32 subtype.toNat tail)) s).respond


end Sys2Proof.Machine
end

