-- ==== Sys2Proof/Machine/Dispatch.lean ====
section
/-! DEFINITION. One arm for each instruction: the direct call of its meaning. -/

namespace Sys2Proof.Machine

def exec (i : Instr) (s : State) : Host.Outcome State Fault Refusal :=
  match i with
  | .reset => Sys2Proof.Machine.execReset s
  | .dLoad bytes => Sys2Proof.Machine.execDLoad bytes s
  | .dSeek off => Sys2Proof.Machine.execDSeek off s
  | .dTell => Sys2Proof.Machine.execDTell s
  | .eNew => Sys2Proof.Machine.execENew s
  | .eTell => Sys2Proof.Machine.execETell s
  | .eRead => Sys2Proof.Machine.execERead s
  | .dBool => Sys2Proof.Machine.execDBool s
  | .dU8 => Sys2Proof.Machine.execDU8 s
  | .dU16 => Sys2Proof.Machine.execDU16 s
  | .dS16 => Sys2Proof.Machine.execDS16 s
  | .dU32 => Sys2Proof.Machine.execDU32 s
  | .dS32 => Sys2Proof.Machine.execDS32 s
  | .dU64 => Sys2Proof.Machine.execDU64 s
  | .dS64 => Sys2Proof.Machine.execDS64 s
  | .dBits w => Sys2Proof.Machine.execDBits w s
  | .eBool val => Sys2Proof.Machine.execEBool val s
  | .eU8 val => Sys2Proof.Machine.execEU8 val s
  | .eU16 val => Sys2Proof.Machine.execEU16 val s
  | .eS16 val => Sys2Proof.Machine.execES16 val s
  | .eU32 val => Sys2Proof.Machine.execEU32 val s
  | .eS32 val => Sys2Proof.Machine.execES32 val s
  | .eU64 val => Sys2Proof.Machine.execEU64 val s
  | .eS64 val => Sys2Proof.Machine.execES64 val s
  | .eBits w val => Sys2Proof.Machine.execEBits w val s
  | .dArr8 n => Sys2Proof.Machine.execDArr8 n s
  | .dArr16 n => Sys2Proof.Machine.execDArr16 n s
  | .dStr n => Sys2Proof.Machine.execDStr n s
  | .dBitv n => Sys2Proof.Machine.execDBitv n s
  | .dOpaque endOff => Sys2Proof.Machine.execDOpaque endOff s
  | .eArr8 bytes => Sys2Proof.Machine.execEArr8 bytes s
  | .eArr16 words => Sys2Proof.Machine.execEArr16 words s
  | .eStr bytes => Sys2Proof.Machine.execEStr bytes s
  | .eBitv bits => Sys2Proof.Machine.execEBitv bits s
  | .dMsghdr exp => Sys2Proof.Machine.execDMsghdr exp s
  | .dMsgend endOff => Sys2Proof.Machine.execDMsgend endOff s
  | .dParhdr => Sys2Proof.Machine.execDParhdr s
  | .dParend endOff => Sys2Proof.Machine.execDParend endOff s
  | .dCustmsg endOff => Sys2Proof.Machine.execDCustmsg endOff s
  | .dCustpar endOff => Sys2Proof.Machine.execDCustpar endOff s
  | .eMsghdr ver type id => Sys2Proof.Machine.execEMsghdr ver type id s
  | .eMsglen start => Sys2Proof.Machine.execEMsglen start s
  | .eTvhdr type => Sys2Proof.Machine.execETvhdr type s
  | .eTlvhdr type => Sys2Proof.Machine.execETlvhdr type s
  | .eTlvlen start => Sys2Proof.Machine.execETlvlen start s
  | .eCustmsg vendor subtype bytes => Sys2Proof.Machine.execECustmsg vendor subtype bytes s
  | .eCustpar vendor subtype bytes => Sys2Proof.Machine.execECustpar vendor subtype bytes s
  | .rOpen => Sys2Proof.Machine.execROpen s
  | .rFeed b => Sys2Proof.Machine.execRFeed b s
  | .rFeedn bytes => Sys2Proof.Machine.execRFeedn bytes s
  | .rClose => Sys2Proof.Machine.execRClose s
  | .rStat => Sys2Proof.Machine.execRStat s
  | .msghdr reserved ver type length id => Sys2Proof.Machine.execMsghdr reserved ver type length id s
  | .tvhdr type => Sys2Proof.Machine.execTvhdr type s
  | .tlvhdr reserved type length => Sys2Proof.Machine.execTlvhdr reserved type length s
  | .custmsgBody vendor subtype tail => Sys2Proof.Machine.execCustmsgBody vendor subtype tail s
  | .custparBody vendor subtype tail => Sys2Proof.Machine.execCustparBody vendor subtype tail s

end Sys2Proof.Machine
end

