-- ==== Sys2Proof/Machine/Fetch.lean ====
section
/-! DEFINITION. Where the next instruction comes from. The block fetches nothing from a memory of its own (20_memory.md
R77): the host issues one command after another (00_scope.md R6), and `pending` holds what it has still to issue. -/

namespace Sys2Proof.Machine

/-- What the host issues next, with what it issues after it; `none` when it issues nothing. -/
def fetchItem (s : State) : Option (Item × List Item) :=
  match s.pending with
  | [] => none
  | item :: rest => some (item, rest)

/-- An item that is no instruction: an operation code outside R101 is answered with `BadOperand` (R103); bits that match
no layout stand for nothing the block could run. -/
def rejectItem (e : DecodeError) (s : State) : Host.Outcome State Fault Refusal :=
  match e with
  | .illegalOp op => illegalOp op s
  | .notALayout nbits w => .refused (.notALayout nbits w)

/-- The item as the next thing the host issues. -/
def placeItem (item : Item) (s : State) : State :=
  s.setPending (item :: s.pending)

end Sys2Proof.Machine
end

