-- ==== Sys2Proof/Machine/Step.lean ====
section
/-! DEFINITION. One step: the block takes the next thing the host issues and runs it, whole and before anything else
(20_memory.md R69, R73). With nothing issued the block is idle and holds its state (60_exceptions.md R357). -/

namespace Sys2Proof.Machine

def step (s : State) : Host.Outcome State Fault Refusal :=
  match fetchItem s with
  | none => .next s
  | some (item, rest) =>
    match decode item with
    | .ok i => exec i (s.setPending rest)
    | .error e => rejectItem e (s.setPending rest)

/-- The word of spec/opcode_table.json as what the host issues next (log entry 2). -/
def State.withFetchWord (s : State) (nbits w : Nat) : State :=
  placeItem (itemOfTableWord nbits w) s

end Sys2Proof.Machine
end

