-- ==== Sys2Proof/Machine/Program.lean ====
section
/-! DEFINITION. Programs: sequences of operations issued one after another (00_scope.md R6), and the pseudo-operations
of 30_encoding.md R106, which are shorthand for such sequences and have no code of their own. -/

namespace Sys2Proof.Machine

/-- Operations issued one after another (R73): the responses in order and the state at the end; `none` when one of
them answers no next state. -/
def runOps : List Instr → State → Option (List Response × State)
  | [], s => some ([], s)
  | i :: rest, s =>
    match exec i s with
    | .next t =>
      match runOps rest t with
      | some (rs, u) => some (t.resp.toList ++ rs, u)
      | none => none
    | .fault _ => none
    | .refused _ => none

/-- The outcome of issuing one more operation, chosen by the host from the state it sees after the one before. -/
def thenIssue (o : Host.Outcome State Fault Refusal) (next : State → Instr) : Host.Outcome State Fault Refusal :=
  match o with
  | .next t => exec (next t) t
  | .fault r => .fault r
  | .refused r => .refused r

/-- The cursor that a `D.TELL` has just reported. -/
def reportedCursor (s : State) : Nat :=
  match s.resp with
  | some ⟨_, _, .cursor cur _⟩ => cur
  | _ => 0

/-- `D.REWIND` (R106): `D.SEEK 0`. -/
def pseudoRewind (s : State) : Host.Outcome State Fault Refusal :=
  exec (.dSeek 0) s

/-- `E.OPAQUE bytes` (R106): `E.ARR8 bytes`. -/
def pseudoOpaque (bytes : List Byte) (s : State) : Host.Outcome State Fault Refusal :=
  exec (.eArr8 bytes) s

/-- `D.SKIP n` (R106): `D.TELL -> c, l` and then `D.SEEK c + n`. -/
def pseudoSkip (n : Nat) (s : State) : Host.Outcome State Fault Refusal :=
  thenIssue (exec .dTell s) fun t => .dSeek (reportedCursor t + n)

/-- `D.PEEK16 -> v` (R106): `D.U16 -> v`, `D.TELL -> c, l`, `D.SEEK c - 16`. The value is in the response of the
first operation, `exec .dU16 s`. R106 gives the expansion for operations that answer `OK` (R105). After a `D.U16` that is
truncated the model still issues the other two, and where `c` is below 16, so that `c - 16` is no natural number (R16),
it seeks to 0 (DESIGN CHOICE, log entry 13). -/
def pseudoPeek16 (s : State) : Host.Outcome State Fault Refusal :=
  thenIssue (thenIssue (exec .dU16 s) fun _ => .dTell) fun t => .dSeek (reportedCursor t - 16)

/-- `D.PROBE t1, ..., tk` (R106): `D.MSGHDR` with one candidate after another, until a status is not
`TypeMismatch`. With no candidate nothing is issued (DESIGN CHOICE, log entry 13). -/
def pseudoProbe : List Nat → State → Host.Outcome State Fault Refusal
  | [], s => .next s
  | exp :: rest, s =>
    match exec (.dMsghdr exp) s with
    | .next t => if t.resp.map Response.status = some .typeMismatch ∧ rest ≠ [] then pseudoProbe rest t else .next t
    | .fault r => .fault r
    | .refused r => .refused r

end Sys2Proof.Machine
end

