-- ==== Sys2Proof/Safety.lean ====
section
/-! DEFINITION. The terms in which claims about the block are stated: the invariants of 10_state.md R22, R25, R27, R28
and of the emitted messages (47_reassembler.md R304), the groups of operations of 10_state.md R31, the status matrix of
60_exceptions.md R346, and `MemRead` as 00_scope.md R15 writes it. -/

namespace Sys2Proof.Machine

/-! ## Reading a bit buffer -/

/-- `bit(B, k)` as the number 0 or 1 (R15). -/
def bitAt (bits : List Bool) (k : Nat) : Nat :=
  (bits.getD k false).toNat

/-- `MemRead(B, off, n)` as the sum R15 writes. -/
def memValue (bits : List Bool) (off n : Nat) : Nat :=
  ∑ i ∈ Finset.range n, bitAt bits (off + i) * 2 ^ (n - 1 - i)

/-! ## Responses -/

/-- The response of an operation that succeeded. -/
def okResp (r : Results) : Option Response :=
  some ⟨.ok, 0, r⟩

/-- The response of an operation that failed: no results. -/
def failResp (status : Status) (info : Nat) : Option Response :=
  some ⟨status, info, .absent⟩

/-! ## Capacity -/

/-- A length of `n` fits the capacity; every length fits an infinite one (R11). -/
def Fits (cap : Option Nat) (n : Nat) : Prop :=
  ∀ c, cap = some c → n ≤ c

/-! ## Scalar kinds -/

/-- The operation reads an unsigned kind of `w` bits (R152, R153, R154, R156, R158, R160). -/
def DecodesUnsigned (i : Instr) (w : Nat) : Prop :=
  (i, w) ∈ [(Instr.dBool, 1), (.dU8, 8), (.dU16, 16), (.dU32, 32), (.dU64, 64)] ∨ (1 ≤ w ∧ w ≤ 64 ∧ i = .dBits w)

/-- The operation reads a signed kind of `w` bits (R155, R157, R159). -/
def DecodesSigned (i : Instr) (w : Nat) : Prop :=
  (i, w) ∈ [(Instr.dS16, 16), (.dS32, 32), (.dS64, 64)]

/-- The operation appends an unsigned kind of `w` bits (R172, R173, R174, R176, R178, R180). -/
def EncodesUnsigned (f : Port → Instr) (w : Nat) : Prop :=
  (f, w) ∈ [(Instr.eBool, 1), (Instr.eU8, 8), (Instr.eU16, 16), (Instr.eU32, 32), (Instr.eU64, 64)] ∨
    (1 ≤ w ∧ w ≤ 64 ∧ f = Instr.eBits w)

/-- The operation appends a signed kind of `w` bits (R175, R177, R179). -/
def EncodesSigned (f : Port → Instr) (w : Nat) : Prop :=
  (f, w) ∈ [(Instr.eS16, 16), (Instr.eS32, 32), (Instr.eS64, 64)]

/-- The scalar kinds with the value each reads back from a port (R164, R171): unsigned, the low `w` bits; signed, the
same bits in two's complement. -/
def ScalarPair (f : Port → Instr) (i : Instr) (w : Nat) (value : Port → Results) : Prop :=
  (f, i, w) ∈ [(Instr.eBool, Instr.dBool, 1), (Instr.eU8, .dU8, 8), (Instr.eU16, .dU16, 16), (Instr.eU32, .dU32, 32),
      (Instr.eU64, .dU64, 64)] ∧ value = (fun val => .uval (val.toNat % 2 ^ w)) ∨
  (1 ≤ w ∧ w ≤ 64 ∧ f = Instr.eBits w ∧ i = .dBits w ∧ value = fun val => .uval (val.toNat % 2 ^ w)) ∨
  (f, i, w) ∈ [(Instr.eS16, Instr.dS16, 16), (Instr.eS32, .dS32, 32), (Instr.eS64, .dS64, 64)] ∧
    value = (fun val => .sval ((val.setWidth w).toInt))

/-! ## Invariants -/

/-- A whole message: its header passes validation and declares exactly its length (R304). -/
def messageOk (cfg : Config) (m : List Byte) : Bool :=
  decide (validate cfg (parseHeader m) = none) && decide ((parseHeader m).length = m.length)

/-- The reassembler's variables in each of its three states (R26, R27, R28). -/
def reassemblerOk (s : State) : Bool :=
  match s.rstate with
  | .awaitingHeader => decide (s.hcnt ≤ 9) && decide (s.mlen = 0) && decide (s.mbuf = [])
  | .awaitingBody =>
    decide (s.hcnt = 0) && decide (10 ≤ s.mcnt) && decide (s.mcnt < s.mlen) && decide (s.mlen ≤ s.cfg.maxMsgLen) &&
      decide (validate s.cfg (parseHeader s.mbuf) = none) && decide ((parseHeader s.mbuf).length = s.mlen)
  | .closed => decide (s.hcnt = 0) && decide (s.mlen = 0) && decide (s.mbuf = [])

/-- The invariant between two operations: the configuration meets its constraints, the buffers are in canonical form
and the reassembler's variables are what its state says. -/
def Inv (s : State) : Prop :=
  s.cfg.wf = true ∧ Memory.wf s = true ∧ reassemblerOk s = true

/-- Every message put out so far is a whole message (R304). -/
def EmittedOk (s : State) : Prop :=
  ∀ m : List Byte, Event.messageComplete m ∈ s.rout → messageOk s.cfg m = true

/-! ## Groups of operations -/

/-- The unit an instruction belongs to (R31). -/
inductive BlockUnit where
  | whole
  | decodeSide
  | encodeSide
  | reassembler
deriving DecidableEq, Repr

/-- The rows of R31. A wire layout is input to the reassembler (log entry 1). -/
def unitOf : Instr → BlockUnit
  | .reset => .whole
  | .dLoad _ | .dSeek _ | .dTell => .decodeSide
  | .dBool | .dU8 | .dU16 | .dS16 | .dU32 | .dS32 | .dU64 | .dS64 | .dBits _ => .decodeSide
  | .dArr8 _ | .dArr16 _ | .dStr _ | .dBitv _ | .dOpaque _ => .decodeSide
  | .dMsghdr _ | .dMsgend _ | .dParhdr | .dParend _ | .dCustmsg _ | .dCustpar _ => .decodeSide
  | .eNew | .eTell | .eRead => .encodeSide
  | .eBool _ | .eU8 _ | .eU16 _ | .eS16 _ | .eU32 _ | .eS32 _ | .eU64 _ | .eS64 _ | .eBits _ _ => .encodeSide
  | .eArr8 _ | .eArr16 _ | .eStr _ | .eBitv _ => .encodeSide
  | .eMsghdr _ _ _ | .eMsglen _ | .eTvhdr _ | .eTlvhdr _ | .eTlvlen _ => .encodeSide
  | .eCustmsg _ _ _ | .eCustpar _ _ _ => .encodeSide
  | .rOpen | .rFeed _ | .rFeedn _ | .rClose | .rStat => .reassembler
  | .msghdr _ _ _ _ _ | .tvhdr _ | .tlvhdr _ _ _ | .custmsgBody _ _ _ | .custparBody _ _ _ => .reassembler

/-! ## The status matrix -/

/-- The statuses other than `OK` that R346 marks for an operation. A wire layout has the row of `R.FEEDN`. -/
def marked : Instr → List Status
  | .reset | .dTell | .eNew | .eTell | .rOpen | .rClose | .rStat => []
  | .dLoad _ => [.overflow]
  | .dSeek _ => [.badOperand]
  | .eRead => [.notByteAligned]
  | .dBool | .dU8 | .dU16 | .dS16 | .dU32 | .dS32 | .dU64 | .dS64 => [.truncatedInput]
  | .dBits _ => [.truncatedInput, .badOperand]
  | .eBool _ | .eU8 _ | .eU16 _ | .eS16 _ | .eU32 _ | .eS32 _ | .eU64 _ | .eS64 _ => [.overflow]
  | .eBits _ _ => [.badOperand, .overflow]
  | .dArr8 _ | .dArr16 _ | .dStr _ | .dBitv _ => [.truncatedInput]
  | .dOpaque _ => [.truncatedInput, .badOperand, .notByteAligned]
  | .eArr8 _ | .eArr16 _ | .eStr _ | .eBitv _ => [.overflow]
  | .dMsghdr _ => [.truncatedInput, .truncatedMessage, .malformedMessage, .typeMismatch, .badOperand]
  | .dMsgend _ => [.malformedMessage]
  | .dParhdr => [.truncatedInput, .malformedParameter]
  | .dParend _ => [.malformedParameter]
  | .dCustmsg _ | .dCustpar _ => [.truncatedInput, .badOperand, .notByteAligned]
  | .eMsghdr _ _ _ | .eTvhdr _ | .eTlvhdr _ | .eCustmsg _ _ _ | .eCustpar _ _ _ => [.badOperand, .overflow]
  | .eMsglen _ | .eTlvlen _ => [.badOperand, .notByteAligned, .overflow]
  | .rFeed _ | .rFeedn _ => [.framingFault, .closed]
  | .msghdr _ _ _ _ _ | .tvhdr _ | .tlvhdr _ _ _ | .custmsgBody _ _ _ | .custparBody _ _ _ => [.framingFault, .closed]

/-- The code of R101 of an operation; `none` for a wire layout. -/
def opCode (i : Instr) : Option (BitVec 8) :=
  match encode i with
  | .command op _ => some op
  | .wire _ _ _ => none

/-! ## The reassembler's part of the state -/

/-- The bytes the reassembler holds of a message not yet complete (R304). -/
def heldBytes (s : State) : List Byte :=
  match s.rstate with
  | .awaitingHeader => s.hdr.toList.take s.hcnt
  | .awaitingBody => s.mbuf
  | .closed => []

/-- Between `s` and `t` the events `evs` were put out, and the response carries them (R29, R292). -/
def Puts (s t : State) (evs : List Event) : Prop :=
  t.rout = s.rout ++ evs ∧ ∃ st info, t.resp = some ⟨st, info, .events evs⟩

/-- The byte contents of the completed messages among some events, in order (R304). -/
def messageBytes (events : List Event) : List Byte :=
  events.flatMap fun e =>
    match e with
    | .messageComplete m => m
    | .framingFault _ => []

end Sys2Proof.Machine
end

