-- ==== Sys2Proof/WellFormed.lean ====
section
/-! DEFINITION. The operand ranges of 30_encoding.md R104. An instruction outside them is not rejected by the
decoder: the block accepts it and answers `BadOperand` (R103, R342), which its meaning says. -/

namespace Sys2Proof

/-- Every operand lies in the range R104 gives it: a width in 1 to 64, a message or TLV type of 10 bits, a TV type of
7 bits, a version of 3 bits, an id and a vendor of 32 bits, a subtype of 8 (message) or 32 (parameter) bits. Counts
and offsets are any natural numbers. -/
def Instr.wellFormed : Instr → Bool
  | .dBits w => decide (1 ≤ w ∧ w ≤ 64)
  | .eBits w _ => decide (1 ≤ w ∧ w ≤ 64)
  | .dMsghdr exp => decide (exp ≤ 1023)
  | .eMsghdr ver type id => decide (ver ≤ 7) && decide (type ≤ 1023) && decide (id ≤ 2 ^ 32 - 1)
  | .eTvhdr type => decide (type ≤ 127)
  | .eTlvhdr type => decide (type ≤ 1023)
  | .eCustmsg vendor subtype _ => decide (vendor ≤ 2 ^ 32 - 1) && decide (subtype ≤ 255)
  | .eCustpar vendor subtype _ => decide (vendor ≤ 2 ^ 32 - 1) && decide (subtype ≤ 2 ^ 32 - 1)
  | .reset | .dLoad _ | .dSeek _ | .dTell | .eNew | .eTell | .eRead => true
  | .dBool | .dU8 | .dU16 | .dS16 | .dU32 | .dS32 | .dU64 | .dS64 => true
  | .eBool _ | .eU8 _ | .eU16 _ | .eS16 _ | .eU32 _ | .eS32 _ | .eU64 _ | .eS64 _ => true
  | .dArr8 _ | .dArr16 _ | .dStr _ | .dBitv _ | .dOpaque _ => true
  | .eArr8 _ | .eArr16 _ | .eStr _ | .eBitv _ => true
  | .dMsgend _ | .dParhdr | .dParend _ | .dCustmsg _ | .dCustpar _ => true
  | .eMsglen _ | .eTlvlen _ => true
  | .rOpen | .rFeed _ | .rFeedn _ | .rClose | .rStat => true
  | .msghdr _ _ _ _ _ | .tvhdr _ | .tlvhdr _ _ _ | .custmsgBody _ _ _ | .custparBody _ _ _ => true

end Sys2Proof
end

