-- ==== Sys2Proof/Certificates/Slice0/Obligations.lean ====
section
/-! DEFINITION. The statements for the provers. Each says in its docstring which rule of spec/ it formalises. A next
state is written as the state before with the fields that change, so that every field not named is unchanged: that is
the statement's frame. -/

open Sys2Proof Sys2Proof.Machine

/-! ## Issuing and decoding -/

/-- A step takes the next item the host issues and runs the instruction it decodes to (R73); with nothing issued the block
holds its state (R357). That a step takes its instruction from `pending` is the model's choice (log entry 2). -/
def Obligations.StepRunsDecodedInstruction : Prop :=
  (∀ (s : State) (item : Item) (rest : List Item) (i : Instr), s.pending = item :: rest → decode item = .ok i →
    step s = exec i { s with pending := rest }) ∧
  ∀ s : State, s.pending = [] → step s = .next s

/-- R103: an operation code that R101 does not list is `BadOperand` with the code, whatever the operands; and an operand
outside its range of R104, or a seek past the end, is `BadOperand`. Nothing changes but the response and what is still to be
issued. -/
def Obligations.IllegalOperationsAreBadOperand : Prop :=
  (∀ (s : State) (op : BitVec 8) (o : Operands) (rest : List Item), s.pending = .command op o :: rest →
    op.toNat ∉ [0x00, 0x01, 0x02, 0x03, 0x04, 0x05, 0x06, 0x10, 0x11, 0x12, 0x13, 0x14, 0x15, 0x16, 0x17, 0x18, 0x20,
      0x21, 0x22, 0x23, 0x24, 0x25, 0x26, 0x27, 0x28, 0x30, 0x31, 0x32, 0x33, 0x34, 0x40, 0x41, 0x42, 0x43, 0x50, 0x51,
      0x52, 0x53, 0x54, 0x55, 0x60, 0x61, 0x62, 0x63, 0x64, 0x65, 0x66, 0x70, 0x71, 0x72, 0x73, 0x74] →
    step s = .next { s with pending := rest, resp := failResp .badOperand op.toNat }) ∧
  (∀ (i : Instr) (s : State), i.wellFormed = false →
    ∃ v, exec i s = .next { s with resp := failResp .badOperand v }) ∧
  ∀ (off : Nat) (s : State), s.dlen < off → exec (.dSeek off) s = .next { s with resp := failResp .badOperand off }

/-- Decoding what an instruction encodes to gives it back, with every operand at every value; and bits that decode to a
layout of R90 to R94 are the bits that layout encodes to, so no bit of a layout is dropped. -/
def Obligations.DecodeAndEncodeAgree : Prop :=
  (∀ i : Instr, decode (encode i) = .ok i) ∧
  ∀ (nbits w : Nat) (tail : List Byte) (i : Instr), decode (.wire nbits w tail) = .ok i → encode i = .wire nbits w tail

/-- Words written out from R101 and from R90 to R94 decode to the instructions they stand for, and 0x07, 0x75 and a
32-bit word whose first bit is 1 to none. How a table word is read is the model's choice (DESIGN CHOICE, log entry 1): an
8-bit word below 128 as an operation code with every operand port zero, an 8-bit word from 128 on as the TV header row, a
wider word with its most significant bit first on the wire. -/
def Obligations.TableWordsDecode : Prop :=
  decodeTableWord 8 0x00 = some .reset ∧ decodeTableWord 8 0x12 = some .dU16 ∧
  decodeTableWord 8 0x26 = some (.eU64 0) ∧ decodeTableWord 8 0x33 = some (.dBitv 0) ∧
  decodeTableWord 8 0x41 = some (.eArr16 []) ∧ decodeTableWord 8 0x52 = some .dParhdr ∧
  decodeTableWord 8 0x64 = some (.eTlvlen 0) ∧ decodeTableWord 8 0x74 = some .rStat ∧
  decodeTableWord 8 0x81 = some (.tvhdr 1) ∧ decodeTableWord 32 0x012C0006 = some (.tlvhdr 0 300 6) ∧
  decodeTableWord 80 0x0414000000130000002A = some (.msghdr 0 1 20 19 42) ∧
  decodeTableWord 40 0x0000006305 = some (.custmsgBody 99 5 []) ∧
  decodeTableWord 64 0x0000006300000005 = some (.custparBody 99 5 []) ∧
  decodeTableWord 8 0x07 = none ∧ decodeTableWord 8 0x75 = none ∧ decodeTableWord 32 0x812C0006 = none

/-! ## Reset and the buffer operations -/

/-- R34 and R130: what power-on and `RESET` leave. The header bytes, which R34 leaves unspecified, are not spoken of. -/
def Obligations.ResetLeavesTheResetState : Prop :=
  (State.reset.dbits = [] ∧ State.reset.dlen = 0 ∧ State.reset.dcur = 0 ∧ State.reset.ebits = [] ∧ State.reset.elen = 0 ∧
    State.reset.rstate = .awaitingHeader ∧ State.reset.hcnt = 0 ∧ State.reset.mbuf = [] ∧ State.reset.mlen = 0 ∧
    State.reset.mcnt = 0 ∧ State.reset.rout = []) ∧
  ∀ s : State, ∃ t, exec .reset s = .next t ∧
    t = { s with
      dbits := [], dcur := 0, ebits := [], rstate := .awaitingHeader, hdr := t.hdr, hcnt := 0, mbuf := [], mlen := 0,
      resp := okResp .absent }

/-- R132: `D.LOAD` fills `DBUF`, bit `i` of byte `j` at offset `8*j + i`, and puts the cursor at 0; bytes that do not fit
are `Overflow` and nothing changes. -/
def Obligations.LoadFillsDecodeBuffer : Prop :=
  ∀ (s : State) (bytes : List Byte),
    (Fits s.cfg.dcapBits (8 * bytes.length) →
      ∃ t, exec (.dLoad bytes) s = .next t ∧
        t = { s with dbits := t.dbits, dcur := 0, resp := okResp .absent } ∧ t.dlen = 8 * bytes.length ∧
        ∀ (j i : Nat) (b : Byte), bytes[j]? = some b → i < 8 → t.dbits[8 * j + i]? = some (b.getLsbD (7 - i))) ∧
    (¬Fits s.cfg.dcapBits (8 * bytes.length) →
      exec (.dLoad bytes) s = .next { s with resp := failResp .overflow (8 * bytes.length) })

/-- R133: `D.SEEK` sets the cursor to any offset up to and including `dlen`; past it, `BadOperand` and nothing changes. -/
def Obligations.SeekSetsCursor : Prop :=
  ∀ (s : State) (off : Nat),
    (off ≤ s.dlen → exec (.dSeek off) s = .next { s with dcur := off, resp := okResp .absent }) ∧
    (s.dlen < off → exec (.dSeek off) s = .next { s with resp := failResp .badOperand off })

/-- R134, R140, R302: `D.TELL`, `E.TELL` and `R.STAT` report and change nothing; and between operations `R.STAT` reports
one of the three forms of R302. -/
def Obligations.ReportsChangeNothing : Prop :=
  ∀ s : State,
    exec .dTell s = .next { s with resp := okResp (.cursor s.dcur s.dlen) } ∧
    exec .eTell s = .next { s with resp := okResp (.len s.elen) } ∧
    exec .rStat s = .next { s with resp := okResp (.stat s.rstate s.hcnt s.mlen s.mcnt) } ∧
    (Inv s →
      (s.rstate = .awaitingHeader ∧ s.hcnt ≤ 9 ∧ s.mlen = 0 ∧ s.mcnt = 0) ∨
      (s.rstate = .awaitingBody ∧ s.hcnt = 0 ∧ 10 ≤ s.mcnt ∧ s.mcnt < s.mlen ∧ s.mlen ≤ s.cfg.maxMsgLen) ∨
      (s.rstate = .closed ∧ s.hcnt = 0 ∧ s.mlen = 0 ∧ s.mcnt = 0))

/-- R139 and R141: `E.NEW` empties `EBUF`; `E.READ` returns byte `j` as `MemRead(EBUF, 8*j, 8)` and changes nothing, or
`NotByteAligned` with the remainder when `EBUF` is not whole bytes. -/
def Obligations.NewEmptiesAndReadReturnsBytes : Prop :=
  ∀ s : State,
    exec .eNew s = .next { s with ebits := [], resp := okResp .absent } ∧
    (s.elen % 8 = 0 →
      ∃ bs : List Byte, exec .eRead s = .next { s with resp := okResp (.bytes bs) } ∧ bs.length = s.elen / 8 ∧
        ∀ j b, bs[j]? = some b → b.toNat = memValue s.ebits (8 * j) 8) ∧
    (s.elen % 8 ≠ 0 → exec .eRead s = .next { s with resp := failResp .notByteAligned (s.elen % 8) })

/-! ## Bit strings -/

/-- R15 and R150: the accumulator loop of a field read computes the sum that R15 gives for `MemRead`. -/
def Obligations.AccumulatorComputesMemRead : Prop :=
  ∀ (bits : List Bool) (off n : Nat), off + n ≤ bits.length → memRead bits off n = memValue bits off n

/-- R64: reads of different widths agree, and a read of any width inside a written range returns the written bits. The
spec marks R64 as derived (from R15). -/
def Obligations.MixedWidthReadsAgree : Prop :=
  (∀ (bits : List Bool) (off a b : Nat), off + a + b ≤ bits.length →
    memRead bits off (a + b) = memRead bits off a * 2 ^ b + memRead bits (off + a) b) ∧
  ∀ (bits : List Bool) (off n v o m : Nat), off + n ≤ bits.length → o + m ≤ n →
    memRead (memWrite bits off n v) (off + o) m = v / 2 ^ (n - o - m) % 2 ^ m

/-- `MemWrite` (R15) keeps the length, writes bit `n-1-i` of the value at `off + i`, and leaves every other bit alone. -/
def Obligations.MemWriteTouchesOnlyItsBits : Prop :=
  ∀ (bits : List Bool) (off n v : Nat), off + n ≤ bits.length →
    (memWrite bits off n v).length = bits.length ∧
    (∀ i, i < n → (memWrite bits off n v)[off + i]? = some (v.testBit (n - 1 - i))) ∧
    ∀ k, k < off ∨ off + n ≤ k → (memWrite bits off n v)[k]? = bits[k]?

/-! ## Scalar decode -/

/-- R152, R153, R154, R156, R158: an unsigned read returns `MemRead(DBUF, dcur, w)`, advances the cursor by `w` and
changes nothing else, at any cursor; with too few bits it is `TruncatedInput`. -/
def Obligations.UnsignedDecodeReturnsField : Prop :=
  ∀ (s : State) (i : Instr) (w : Nat), DecodesUnsigned i w →
    (s.dcur + w ≤ s.dlen →
      exec i s = .next { s with dcur := s.dcur + w, resp := okResp (.uval (memValue s.dbits s.dcur w)) } ∧
      memValue s.dbits s.dcur w < 2 ^ w) ∧
    (s.dlen < s.dcur + w → exec i s = .next { s with resp := failResp .truncatedInput (s.dcur + w - s.dlen) })

/-- R155, R157, R159, R162: a signed read returns the same bits in two's complement. -/
def Obligations.SignedDecodeReinterpretsField : Prop :=
  ∀ (s : State) (i : Instr) (w : Nat), DecodesSigned i w →
    (s.dcur + w ≤ s.dlen →
      ∃ v : Int, exec i s = .next { s with dcur := s.dcur + w, resp := okResp (.sval v) } ∧
        (memValue s.dbits s.dcur w < 2 ^ (w - 1) → v = memValue s.dbits s.dcur w) ∧
        (2 ^ (w - 1) ≤ memValue s.dbits s.dcur w → v = (memValue s.dbits s.dcur w : Int) - 2 ^ w) ∧
        -(2 ^ (w - 1) : Int) ≤ v ∧ v < 2 ^ (w - 1)) ∧
    (s.dlen < s.dcur + w → exec i s = .next { s with resp := failResp .truncatedInput (s.dcur + w - s.dlen) })

/-- R160: `D.BITS` with an illegal width is `BadOperand`, before any other check; with a legal width it reads the field;
and at the widths of the other unsigned kinds it is the same operation as theirs. -/
def Obligations.BitFieldDecode : Prop :=
  ∀ (s : State) (w : Nat),
    (w < 1 ∨ 64 < w → exec (.dBits w) s = .next { s with resp := failResp .badOperand w }) ∧
    (1 ≤ w ∧ w ≤ 64 → s.dcur + w ≤ s.dlen →
      exec (.dBits w) s = .next { s with dcur := s.dcur + w, resp := okResp (.uval (memValue s.dbits s.dcur w)) } ∧
      memValue s.dbits s.dcur w ≤ 2 ^ w - 1) ∧
    (1 ≤ w ∧ w ≤ 64 → s.dlen < s.dcur + w →
      exec (.dBits w) s = .next { s with resp := failResp .truncatedInput (s.dcur + w - s.dlen) }) ∧
    exec (.dBits 1) s = exec .dBool s ∧ exec (.dBits 8) s = exec .dU8 s ∧ exec (.dBits 16) s = exec .dU16 s ∧
    exec (.dBits 32) s = exec .dU32 s ∧ exec (.dBits 64) s = exec .dU64 s

/-- R163: `D.BITS a` then `D.BITS b` reads what `D.BITS (a + b)` reads and ends at the same cursor; with at least `a`
but fewer than `a + b` bits left, the pair fails on its second part with the cursor advanced by `a`, the single read
with the cursor unmoved. The spec marks R163 as derived. -/
def Obligations.BitFieldsSplit : Prop :=
  ∀ (s : State) (a b : Nat), 1 ≤ a → 1 ≤ b → a + b ≤ 64 →
    (s.dcur + a + b ≤ s.dlen →
      ∃ (x y : Nat) (t u v : State), exec (.dBits a) s = .next t ∧ t.resp = okResp (.uval x) ∧
        exec (.dBits b) t = .next u ∧ u.resp = okResp (.uval y) ∧
        exec (.dBits (a + b)) s = .next v ∧ v.resp = okResp (.uval (x * 2 ^ b + y)) ∧ u.dcur = v.dcur) ∧
    (s.dcur + a ≤ s.dlen → s.dlen < s.dcur + a + b →
      ∃ (x n m : Nat) (t u v : State), exec (.dBits a) s = .next t ∧ t.resp = okResp (.uval x) ∧
        exec (.dBits b) t = .next u ∧ u.resp = failResp .truncatedInput n ∧ u.dcur = s.dcur + a ∧
        exec (.dBits (a + b)) s = .next v ∧ v.resp = failResp .truncatedInput m ∧ v.dcur = s.dcur)

/-! ## Scalar encode -/

/-- R170, R172 to R179, R182: a scalar append puts the `w` low bits of the port at the end of `EBUF`, most significant
first, at any append point, and changes nothing else; past the capacity it is `Overflow` and nothing is appended. -/
def Obligations.ScalarEncodeAppendsField : Prop :=
  ∀ (s : State) (f : Port → Instr) (w : Nat) (val : Port), EncodesUnsigned f w ∨ EncodesSigned f w →
    (Fits s.cfg.ecapBits (s.elen + w) →
      ∃ t, exec (f val) s = .next t ∧ t = { s with ebits := t.ebits, resp := okResp .absent } ∧
        t.elen = s.elen + w ∧ t.ebits.take s.elen = s.ebits ∧
        ∀ i, i < w → t.ebits[s.elen + i]? = some (val.getLsbD (w - 1 - i))) ∧
    (¬Fits s.cfg.ecapBits (s.elen + w) →
      exec (f val) s = .next { s with resp := failResp .overflow (s.elen + w) })

/-- R180: `E.BITS` with an illegal width is `BadOperand`, before any other check; at the widths of the other unsigned kinds
it is the same operation as theirs. -/
def Obligations.BitFieldEncode : Prop :=
  ∀ (s : State) (w : Nat) (val : Port),
    (w < 1 ∨ 64 < w → exec (.eBits w val) s = .next { s with resp := failResp .badOperand w }) ∧
    (1 ≤ w ∧ w ≤ 64 → Fits s.cfg.ecapBits (s.elen + w) →
      exec (.eBits w val) s = .next { s with
        ebits := s.ebits ++ (List.range w).map (fun i => val.getLsbD (w - 1 - i)), resp := okResp .absent }) ∧
    (1 ≤ w ∧ w ≤ 64 → ¬Fits s.cfg.ecapBits (s.elen + w) →
      exec (.eBits w val) s = .next { s with resp := failResp .overflow (s.elen + w) }) ∧
    exec (.eBits 8 val) s = exec (.eU8 val) s ∧ exec (.eBits 16 val) s = exec (.eU16 val) s ∧
    exec (.eBits 32 val) s = exec (.eU32 val) s ∧ exec (.eBits 64 val) s = exec (.eU64 val) s

/-- R171: port bits above the field are ignored and raise nothing; a signed operand `v` in the range of its kind appends
`v mod 2^w`, an unsigned operand `v` appends `v`. -/
def Obligations.PortBitsAboveFieldIgnored : Prop :=
  ∀ (s : State) (f : Port → Instr) (w : Nat), EncodesUnsigned f w ∨ EncodesSigned f w →
    (∀ val val' : Port, val.toNat % 2 ^ w = val'.toNat % 2 ^ w → exec (f val) s = exec (f val') s) ∧
    (Fits s.cfg.ecapBits (s.elen + w) →
      (∀ v : Int, -(2 ^ (w - 1) : Int) ≤ v → v < 2 ^ (w - 1) →
        ∃ t, exec (f (BitVec.ofInt 64 v)) s = .next t ∧ t.resp = okResp .absent ∧
          (memValue t.ebits s.elen w : Int) = v % 2 ^ w) ∧
      ∀ v : Nat, v < 2 ^ w →
        ∃ t, exec (f (BitVec.ofNat 64 v)) s = .next t ∧ t.resp = okResp .absent ∧ memValue t.ebits s.elen w = v)

/-- R164, R181: for every scalar kind, the value appended at `o` is the value read back at `o`, after any further fields
that complete the last byte, through `E.READ`, `D.LOAD`, `D.SEEK o` and the matching read. -/
def Obligations.ScalarRoundTrip : Prop :=
  ∀ (f : Port → Instr) (i : Instr) (w : Nat) (value : Port → Results), ScalarPair f i w value →
    ∀ (s : State) (val : Port), Fits s.cfg.ecapBits (s.elen + w) →
      ∃ t, exec (f val) s = .next t ∧ t.elen = s.elen + w ∧ t.ebits.take s.elen = s.ebits ∧
        memValue t.ebits s.elen w = val.toNat % 2 ^ w ∧
        ∀ (u : State) (more : List Bool), u.ebits = t.ebits ++ more → u.elen % 8 = 0 →
          Fits u.cfg.dcapBits u.elen →
          ∃ (bs : List Byte) (u1 u2 u3 u4 : State), exec .eRead u = .next u1 ∧ u1.resp = okResp (.bytes bs) ∧
            exec (.dLoad bs) u1 = .next u2 ∧ exec (.dSeek s.elen) u2 = .next u3 ∧ exec i u3 = .next u4 ∧
            u4.resp = okResp (value val) ∧ u4.dcur = s.elen + w

/-- R183: fields appended one after another to an empty `EBUF` are packed with no gap and no padding, whatever their
widths. The spec marks R183 as derived (from R170). -/
def Obligations.FieldsAreConcatenated : Prop :=
  ∀ (s : State) (fields : List (Nat × Port)), (∀ p ∈ fields, 1 ≤ p.1 ∧ p.1 ≤ 64) →
    Fits s.cfg.ecapBits (fields.map Prod.fst).sum →
    ∃ rs t, runOps (.eNew :: fields.map fun p => .eBits p.1 p.2) s = some (rs, t) ∧
      (∀ r ∈ rs, r.status = .ok) ∧ t.elen = (fields.map Prod.fst).sum ∧
      t.ebits = fields.flatMap fun p => (List.range p.1).map fun i => p.2.getLsbD (p.1 - 1 - i)

/-! ## Variable-width kinds -/

/-- R192, R193, R194: an array or string read returns its elements in wire order, each `MemRead` of its own place, and
advances the cursor by the whole width; truncated, it returns nothing and moves nothing. -/
def Obligations.ArrayDecodeReturnsElements : Prop :=
  ∀ (s : State) (n : Nat),
    (∀ i, i = Instr.dArr8 n ∨ i = Instr.dStr n →
      (s.dcur + 8 * n ≤ s.dlen →
        ∃ bs : List Byte, exec i s = .next { s with dcur := s.dcur + 8 * n, resp := okResp (.bytes bs) } ∧
          bs.length = n ∧ ∀ k b, bs[k]? = some b → b.toNat = memValue s.dbits (s.dcur + 8 * k) 8) ∧
      (s.dlen < s.dcur + 8 * n →
        exec i s = .next { s with resp := failResp .truncatedInput (s.dcur + 8 * n - s.dlen) })) ∧
    (s.dcur + 16 * n ≤ s.dlen →
      ∃ ws : List Word, exec (.dArr16 n) s = .next { s with dcur := s.dcur + 16 * n, resp := okResp (.words ws) } ∧
        ws.length = n ∧ ∀ k b, ws[k]? = some b → b.toNat = memValue s.dbits (s.dcur + 16 * k) 16) ∧
    (s.dlen < s.dcur + 16 * n →
      exec (.dArr16 n) s = .next { s with resp := failResp .truncatedInput (s.dcur + 16 * n - s.dlen) })

/-- R196: a bit-vector read returns exactly its `n` bits, first bit first, and passes the padding to the next multiple
of 8, counted from its own start; data bits or padding that do not fit are `TruncatedInput`. -/
def Obligations.BitVectorDecodeReturnsLogicalBits : Prop :=
  ∀ (s : State) (n need : Nat), n ≤ need → need < n + 8 → need % 8 = 0 →
    (s.dcur + need ≤ s.dlen →
      ∃ bits : List Bool, exec (.dBitv n) s = .next { s with dcur := s.dcur + need, resp := okResp (.bits bits) } ∧
        bits.length = n ∧ ∀ i, i < n → bits[i]? = s.dbits[s.dcur + i]?) ∧
    (s.dlen < s.dcur + need →
      exec (.dBitv n) s = .next { s with resp := failResp .truncatedInput (s.dcur + need - s.dlen) })

/-- R197: `D.OPAQUE` makes its three checks in order, each leaving everything unchanged, and then returns the bytes up
to `end` and puts the cursor there. -/
def Obligations.OpaqueDecodeReadsToEnd : Prop :=
  ∀ (s : State) (endOff : Nat),
    (endOff < s.dcur → exec (.dOpaque endOff) s = .next { s with resp := failResp .badOperand endOff }) ∧
    (s.dcur ≤ endOff → s.dlen < endOff →
      exec (.dOpaque endOff) s = .next { s with resp := failResp .truncatedInput (endOff - s.dlen) }) ∧
    (s.dcur ≤ endOff → endOff ≤ s.dlen → (endOff - s.dcur) % 8 ≠ 0 →
      exec (.dOpaque endOff) s = .next { s with resp := failResp .notByteAligned ((endOff - s.dcur) % 8) }) ∧
    (s.dcur ≤ endOff → endOff ≤ s.dlen → (endOff - s.dcur) % 8 = 0 →
      ∃ bs : List Byte, exec (.dOpaque endOff) s = .next { s with dcur := endOff, resp := okResp (.bytes bs) } ∧
        bs.length = (endOff - s.dcur) / 8 ∧ ∀ k b, bs[k]? = some b → b.toNat = memValue s.dbits (s.dcur + 8 * k) 8)

/-- R211, R212, R213: an array or string append puts its elements at the end of `EBUF` in order, with no gap, prefix,
terminator or padding; past the capacity it is `Overflow` and nothing is appended. -/
def Obligations.ArrayEncodeAppendsElements : Prop :=
  ∀ s : State,
    (∀ (bs : List Byte) (i : Instr), i = .eArr8 bs ∨ i = .eStr bs →
      (Fits s.cfg.ecapBits (s.elen + 8 * bs.length) →
        ∃ t, exec i s = .next t ∧ t = { s with ebits := t.ebits, resp := okResp .absent } ∧
          t.elen = s.elen + 8 * bs.length ∧ t.ebits.take s.elen = s.ebits ∧
          ∀ k b, bs[k]? = some b → memValue t.ebits (s.elen + 8 * k) 8 = b.toNat) ∧
      (¬Fits s.cfg.ecapBits (s.elen + 8 * bs.length) →
        exec i s = .next { s with resp := failResp .overflow (s.elen + 8 * bs.length) })) ∧
    ∀ ws : List Word,
      (Fits s.cfg.ecapBits (s.elen + 16 * ws.length) →
        ∃ t, exec (.eArr16 ws) s = .next t ∧ t = { s with ebits := t.ebits, resp := okResp .absent } ∧
          t.elen = s.elen + 16 * ws.length ∧ t.ebits.take s.elen = s.ebits ∧
          ∀ k b, ws[k]? = some b → memValue t.ebits (s.elen + 16 * k) 16 = b.toNat) ∧
      (¬Fits s.cfg.ecapBits (s.elen + 16 * ws.length) →
        exec (.eArr16 ws) s = .next { s with resp := failResp .overflow (s.elen + 16 * ws.length) })

/-- R214: a bit-vector append puts its bits and then zeros to the next multiple of 8, counted from its own start. -/
def Obligations.BitVectorEncodePadsWithZeros : Prop :=
  ∀ (s : State) (bits : List Bool) (need : Nat), bits.length ≤ need → need < bits.length + 8 → need % 8 = 0 →
    (Fits s.cfg.ecapBits (s.elen + need) →
      exec (.eBitv bits) s = .next { s with
        ebits := s.ebits ++ bits ++ List.replicate (need - bits.length) false, resp := okResp .absent }) ∧
    (¬Fits s.cfg.ecapBits (s.elen + need) →
      exec (.eBitv bits) s = .next { s with resp := failResp .overflow (s.elen + need) })

/-- R200: a byte, word or bit sequence appended at `o` is read back at `o` with its own count, through `E.READ`,
`D.LOAD` and `D.SEEK o`, whatever was appended after it; a bit-vector with its logical length. -/
def Obligations.SequenceRoundTrip : Prop :=
  ∀ (s : State) (i j : Instr) (r : Results) (width : Nat),
    ((∃ l : List Byte, i = .eArr8 l ∧ j = .dArr8 l.length ∧ r = .bytes l ∧ width = 8 * l.length) ∨
     (∃ l : List Byte, i = .eStr l ∧ j = .dStr l.length ∧ r = .bytes l ∧ width = 8 * l.length) ∨
     (∃ l : List Word, i = .eArr16 l ∧ j = .dArr16 l.length ∧ r = .words l ∧ width = 16 * l.length) ∨
     (∃ l : List Bool, i = .eBitv l ∧ j = .dBitv l.length ∧ r = .bits l ∧ width = ceil8 l.length)) →
    Fits s.cfg.ecapBits (s.elen + width) →
    ∃ t, exec i s = .next t ∧
      ∀ (u : State) (more : List Bool), u.ebits = t.ebits ++ more → u.elen % 8 = 0 → Fits u.cfg.dcapBits u.elen →
        ∃ (bs : List Byte) (u1 u2 u3 u4 : State), exec .eRead u = .next u1 ∧ u1.resp = okResp (.bytes bs) ∧
          exec (.dLoad bs) u1 = .next u2 ∧ exec (.dSeek s.elen) u2 = .next u3 ∧ exec j u3 = .next u4 ∧
          u4.resp = okResp r ∧ u4.dcur = s.elen + width

/-- R199: an array read that succeeds returns what its element reads return one after another, and leaves the cursor
where they leave it; a bit-vector read likewise with single bits, before the skip of its padding. The spec marks R199 as
derived. -/
def Obligations.ArrayDecodeIsElementwise : Prop :=
  ∀ (s : State) (n : Nat),
    (s.dcur + 8 * n ≤ s.dlen → ∃ (bs : List Byte) (t u : State), exec (.dArr8 n) s = .next t ∧
      t.resp = okResp (.bytes bs) ∧
      runOps (List.replicate n .dU8) s = some (bs.map fun b => ⟨.ok, 0, .uval b.toNat⟩, u) ∧ u.dcur = t.dcur) ∧
    (s.dcur + 16 * n ≤ s.dlen → ∃ (ws : List Word) (t u : State), exec (.dArr16 n) s = .next t ∧
      t.resp = okResp (.words ws) ∧
      runOps (List.replicate n .dU16) s = some (ws.map fun w => ⟨.ok, 0, .uval w.toNat⟩, u) ∧ u.dcur = t.dcur) ∧
    (s.dcur + ceil8 n ≤ s.dlen → ∃ (bits : List Bool) (t u : State), exec (.dBitv n) s = .next t ∧
      t.resp = okResp (.bits bits) ∧
      runOps (List.replicate n .dBool) s = some (bits.map fun b => ⟨.ok, 0, .uval b.toNat⟩, u) ∧
      u.dcur + (ceil8 n - n) = t.dcur)

/-- R215: an array append that succeeds appends what its element appends append one after another; a bit-vector append
what its single-bit appends and then those of its zero padding append. The spec marks R215 as derived. -/
def Obligations.ArrayEncodeIsElementwise : Prop :=
  ∀ s : State,
    (∀ bs : List Byte, Fits s.cfg.ecapBits (s.elen + 8 * bs.length) → ∃ t rs u, exec (.eArr8 bs) s = .next t ∧
      runOps (bs.map fun b => .eU8 (b.setWidth 64)) s = some (rs, u) ∧ u.ebits = t.ebits) ∧
    (∀ ws : List Word, Fits s.cfg.ecapBits (s.elen + 16 * ws.length) → ∃ t rs u, exec (.eArr16 ws) s = .next t ∧
      runOps (ws.map fun w => .eU16 (w.setWidth 64)) s = some (rs, u) ∧ u.ebits = t.ebits) ∧
    ∀ bits : List Bool, Fits s.cfg.ecapBits (s.elen + ceil8 bits.length) → ∃ t rs u, exec (.eBitv bits) s = .next t ∧
      runOps (bits.map (fun b => .eBool (BitVec.ofNat 64 b.toNat)) ++
        List.replicate (ceil8 bits.length - bits.length) (.eBool 0)) s = some (rs, u) ∧ u.ebits = t.ebits

/-! ## Envelope decode -/

/-- R231, R233: `D.MSGHDR` makes its checks in order, each with its status, info and cursor, and on success returns the
fields of R90 with the message's start and end. -/
def Obligations.MessageHeaderDecode : Prop :=
  ∀ (s : State) (exp start ver type length id : Nat), start = s.dcur → ver = memValue s.dbits (start + 3) 3 →
    type = memValue s.dbits (start + 6) 10 → length = memValue s.dbits (start + 16) 32 →
    id = memValue s.dbits (start + 48) 32 →
    (1023 < exp → exec (.dMsghdr exp) s = .next { s with resp := failResp .badOperand exp }) ∧
    (exp ≤ 1023 → s.dlen < start + 16 →
      exec (.dMsghdr exp) s = .next { s with resp := failResp .truncatedInput (start + 16 - s.dlen) }) ∧
    (exp ≤ 1023 → start + 16 ≤ s.dlen → type ≠ exp →
      exec (.dMsghdr exp) s = .next { s with resp := failResp .typeMismatch type }) ∧
    (exp ≤ 1023 → start + 16 ≤ s.dlen → type = exp → s.dlen < start + 48 →
      exec (.dMsghdr exp) s =
        .next { s with dcur := start + 16, resp := failResp .truncatedInput (start + 48 - s.dlen) }) ∧
    (exp ≤ 1023 → start + 48 ≤ s.dlen → type = exp → s.dlen < start + 80 →
      exec (.dMsghdr exp) s =
        .next { s with dcur := start + 48, resp := failResp .truncatedInput (start + 80 - s.dlen) }) ∧
    (exp ≤ 1023 → start + 80 ≤ s.dlen → type = exp → length < 10 →
      exec (.dMsghdr exp) s = .next { s with dcur := start + 80, resp := failResp .malformedMessage length }) ∧
    (exp ≤ 1023 → start + 80 ≤ s.dlen → type = exp → 10 ≤ length → s.dlen < start + 8 * length →
      exec (.dMsghdr exp) s =
        .next { s with dcur := start + 80, resp := failResp .truncatedMessage (start + 8 * length - s.dlen) }) ∧
    (exp ≤ 1023 → type = exp → 10 ≤ length → start + 8 * length ≤ s.dlen →
      exec (.dMsghdr exp) s =
        .next { s with
          dcur := start + 80, resp := okResp (.msgHeader ver type length id start (start + 8 * length)) })

/-- R248: with at least 16 bits at the cursor, probes for types other than the one there leave no trace, and a probe for
any type after them gives what it gives alone. The spec marks R248 as derived. -/
def Obligations.ProbesLeaveNoTrace : Prop :=
  ∀ (s : State) (wrong : List Nat) (exp type : Nat), s.dcur + 16 ≤ s.dlen → type = memValue s.dbits (s.dcur + 6) 10 →
    (∀ e ∈ wrong, e ≤ 1023 ∧ e ≠ type) →
    ∃ rs t, runOps (wrong.map .dMsghdr) s = some (rs, t) ∧ rs = wrong.map (fun _ => ⟨.typeMismatch, type, .absent⟩) ∧
      t = { s with resp := t.resp } ∧ exec (.dMsghdr exp) t = exec (.dMsghdr exp) s

/-- R99 and 93_implementation_defined.md U2, U13: the three reserved bits of a message header, the five of a TLV header
and the padding bits of a bit-vector have no effect on what the decoder returns or where it leaves the cursor. -/
def Obligations.IgnoredBitsHaveNoEffect : Prop :=
  ∀ (s t : State) (i : Instr) (lo hi : Nat), t = { s with dbits := t.dbits } → t.dlen = s.dlen →
    (∀ k, k < lo ∨ hi ≤ k → t.dbits[k]? = s.dbits[k]?) →
    ((∃ exp, i = .dMsghdr exp ∧ lo = s.dcur ∧ hi = s.dcur + 3) ∨
     (i = .dParhdr ∧ s.dbits[s.dcur]? = some false ∧ lo = s.dcur + 1 ∧ hi = s.dcur + 6) ∨
     (∃ n, i = .dBitv n ∧ lo = s.dcur + n ∧ hi = s.dcur + ceil8 n)) →
    ∃ s' t', exec i s = .next s' ∧ exec i t = .next t' ∧ t'.resp = s'.resp ∧ t'.dcur = s'.dcur

/-- R235, R238: the first bit selects the layout; a TV parameter's end comes from `TV_LEN`, a TLV parameter's from its
length field; each failure has its status, info and cursor. -/
def Obligations.ParameterHeaderDecode : Prop :=
  ∀ (s : State) (start : Nat), start = s.dcur →
    (s.dlen < start + 1 → exec .dParhdr s = .next { s with resp := failResp .truncatedInput 1 }) ∧
    (s.dbits[start]? = some true →
      (s.dlen < start + 8 →
        exec .dParhdr s = .next { s with resp := failResp .truncatedInput (start + 8 - s.dlen) }) ∧
      ∀ type : Nat, type = memValue s.dbits (start + 1) 7 → start + 8 ≤ s.dlen →
        (s.cfg.tvLen[type]? = some none →
          exec .dParhdr s = .next { s with dcur := start + 8, resp := failResp .malformedParameter type }) ∧
        ∀ len : Nat, s.cfg.tvLen[type]? = some (some len) →
          exec .dParhdr s =
            .next { s with dcur := start + 8, resp := okResp (.tvHeader type start (start + 8 + len)) }) ∧
    (s.dbits[start]? = some false →
      (s.dlen < start + 16 →
        exec .dParhdr s = .next { s with resp := failResp .truncatedInput (start + 16 - s.dlen) }) ∧
      (start + 16 ≤ s.dlen → s.dlen < start + 32 →
        exec .dParhdr s =
          .next { s with dcur := start + 16, resp := failResp .truncatedInput (start + 32 - s.dlen) }) ∧
      ∀ type length : Nat, type = memValue s.dbits (start + 6) 10 → length = memValue s.dbits (start + 16) 16 →
        start + 32 ≤ s.dlen →
        (length < 4 →
          exec .dParhdr s = .next { s with dcur := start + 32, resp := failResp .malformedParameter length }) ∧
        (4 ≤ length →
          exec .dParhdr s =
            .next { s with
              dcur := start + 32, resp := okResp (.tlvHeader type length start (start + 8 * length)) }))

/-- R234, R239: `D.MSGEND` and `D.PAREND` succeed exactly when the cursor stands at the declared end, else raise their own
status with the distance, short of it or past it; they change nothing. -/
def Obligations.EndChecksCompareCursor : Prop :=
  ∀ (s : State) (endOff : Nat),
    (s.dcur = endOff →
      exec (.dMsgend endOff) s = .next { s with resp := okResp .absent } ∧
      exec (.dParend endOff) s = .next { s with resp := okResp .absent }) ∧
    ∀ d : Nat, 0 < d → (s.dcur + d = endOff ∨ endOff + d = s.dcur) →
      exec (.dMsgend endOff) s = .next { s with resp := failResp .malformedMessage d } ∧
      exec (.dParend endOff) s = .next { s with resp := failResp .malformedParameter d }

/-- R242, R243 and the rows of R240 about them: the generic custom body is a 32-bit vendor, a subtype of 8 bits (message)
or 32 bits (parameter) and the bytes to `end`; reads that completed before a failure stay consumed. -/
def Obligations.CustomBodyDecode : Prop :=
  ∀ (s : State) (endOff w start : Nat) (i : Instr),
    (i = .dCustmsg endOff ∧ w = 8) ∨ (i = .dCustpar endOff ∧ w = 32) → start = s.dcur →
    (s.dlen < start + 32 → exec i s = .next { s with resp := failResp .truncatedInput (start + 32 - s.dlen) }) ∧
    (start + 32 ≤ s.dlen → s.dlen < start + 32 + w →
      exec i s = .next { s with dcur := start + 32, resp := failResp .truncatedInput (start + 32 + w - s.dlen) }) ∧
    (start + 32 + w ≤ s.dlen →
      (endOff < start + 32 + w →
        exec i s = .next { s with dcur := start + 32 + w, resp := failResp .badOperand endOff }) ∧
      (s.dlen < endOff →
        exec i s =
          .next { s with dcur := start + 32 + w, resp := failResp .truncatedInput (endOff - s.dlen) }) ∧
      (start + 32 + w ≤ endOff → endOff ≤ s.dlen → (endOff - (start + 32 + w)) % 8 ≠ 0 →
        exec i s =
          .next { s with
            dcur := start + 32 + w, resp := failResp .notByteAligned ((endOff - (start + 32 + w)) % 8) }) ∧
      (start + 32 + w ≤ endOff → endOff ≤ s.dlen → (endOff - (start + 32 + w)) % 8 = 0 →
        ∃ bs : List Byte,
          exec i s =
            .next { s with
              dcur := endOff
              resp := okResp (.custom (memValue s.dbits start 32) (memValue s.dbits (start + 32) w) bs) } ∧
          bs.length = (endOff - (start + 32 + w)) / 8 ∧
          ∀ k b, bs[k]? = some b → b.toNat = memValue s.dbits (start + 32 + w + 8 * k) 8))

/-! ## Envelope encode -/

/-- R261: `E.MSGHDR` appends the five fields of R90, reserved bits and length 0, and returns where the header starts; an
operand that does not fit its field is `BadOperand` with an offending value, then a full buffer is `Overflow`, and nothing
is appended. -/
def Obligations.MessageHeaderEncode : Prop :=
  ∀ (s : State) (ver type id : Nat),
    (7 < ver ∨ 1023 < type ∨ 2 ^ 32 - 1 < id →
      ∃ v, ((v = ver ∧ 7 < ver) ∨ (v = type ∧ 1023 < type) ∨ (v = id ∧ 2 ^ 32 - 1 < id)) ∧
        exec (.eMsghdr ver type id) s = .next { s with resp := failResp .badOperand v }) ∧
    (ver ≤ 7 → type ≤ 1023 → id ≤ 2 ^ 32 - 1 →
      (¬Fits s.cfg.ecapBits (s.elen + 80) →
        exec (.eMsghdr ver type id) s = .next { s with resp := failResp .overflow (s.elen + 80) }) ∧
      (Fits s.cfg.ecapBits (s.elen + 80) →
        ∃ t, exec (.eMsghdr ver type id) s = .next t ∧
          t = { s with ebits := t.ebits, resp := okResp (.start s.elen) } ∧
          t.elen = s.elen + 80 ∧ t.ebits.take s.elen = s.ebits ∧ memValue t.ebits s.elen 3 = 0 ∧
          memValue t.ebits (s.elen + 3) 3 = ver ∧ memValue t.ebits (s.elen + 6) 10 = type ∧
          memValue t.ebits (s.elen + 16) 32 = 0 ∧ memValue t.ebits (s.elen + 48) 32 = id))

/-- R266, R267: `E.TVHDR` appends the flag 1 and the 7-bit type; `E.TLVHDR` appends six zero bits, the 10-bit type and a
zero length and returns where the header starts; a type that does not fit is `BadOperand`, then `Overflow`. -/
def Obligations.ParameterHeaderEncode : Prop :=
  ∀ (s : State) (type : Nat),
    (127 < type → exec (.eTvhdr type) s = .next { s with resp := failResp .badOperand type }) ∧
    (type ≤ 127 →
      (¬Fits s.cfg.ecapBits (s.elen + 8) →
        exec (.eTvhdr type) s = .next { s with resp := failResp .overflow (s.elen + 8) }) ∧
      (Fits s.cfg.ecapBits (s.elen + 8) →
        ∃ t, exec (.eTvhdr type) s = .next t ∧ t = { s with ebits := t.ebits, resp := okResp .absent } ∧
          t.elen = s.elen + 8 ∧ t.ebits.take s.elen = s.ebits ∧ memValue t.ebits s.elen 1 = 1 ∧
          memValue t.ebits (s.elen + 1) 7 = type)) ∧
    (1023 < type → exec (.eTlvhdr type) s = .next { s with resp := failResp .badOperand type }) ∧
    (type ≤ 1023 →
      (¬Fits s.cfg.ecapBits (s.elen + 32) →
        exec (.eTlvhdr type) s = .next { s with resp := failResp .overflow (s.elen + 32) }) ∧
      (Fits s.cfg.ecapBits (s.elen + 32) →
        ∃ t, exec (.eTlvhdr type) s = .next t ∧ t = { s with ebits := t.ebits, resp := okResp (.start s.elen) } ∧
          t.elen = s.elen + 32 ∧ t.ebits.take s.elen = s.ebits ∧ memValue t.ebits s.elen 6 = 0 ∧
          memValue t.ebits (s.elen + 6) 10 = type ∧ memValue t.ebits (s.elen + 16) 16 = 0))

/-- R271, R272: `E.CUSTMSG` and `E.CUSTPAR` append vendor, subtype (8 or 32 bits) and payload; an operand that does not fit
is `BadOperand` with an offending value, then a full buffer is `Overflow`, and nothing is appended. -/
def Obligations.CustomBodyEncode : Prop :=
  ∀ (s : State) (vendor subtype w : Nat) (bs : List Byte) (i : Instr),
    (i = .eCustmsg vendor subtype bs ∧ w = 8) ∨ (i = .eCustpar vendor subtype bs ∧ w = 32) →
    (2 ^ 32 - 1 < vendor ∨ 2 ^ w - 1 < subtype →
      ∃ v, ((v = vendor ∧ 2 ^ 32 - 1 < vendor) ∨ (v = subtype ∧ 2 ^ w - 1 < subtype)) ∧
        exec i s = .next { s with resp := failResp .badOperand v }) ∧
    (vendor ≤ 2 ^ 32 - 1 → subtype ≤ 2 ^ w - 1 →
      (¬Fits s.cfg.ecapBits (s.elen + (32 + w + 8 * bs.length)) →
        exec i s = .next { s with resp := failResp .overflow (s.elen + (32 + w + 8 * bs.length)) }) ∧
      (Fits s.cfg.ecapBits (s.elen + (32 + w + 8 * bs.length)) →
        ∃ t, exec i s = .next t ∧ t = { s with ebits := t.ebits, resp := okResp .absent } ∧
          t.elen = s.elen + (32 + w + 8 * bs.length) ∧ t.ebits.take s.elen = s.ebits ∧
          memValue t.ebits s.elen 32 = vendor ∧ memValue t.ebits (s.elen + 32) w = subtype ∧
          ∀ k b, bs[k]? = some b → memValue t.ebits (s.elen + 32 + w + 8 * k) 8 = b.toNat))

/-- R263, R264, R269, R270: a patch makes its three checks in order, each leaving everything unchanged, and then overwrites
its length field, the 32 or 16 bits at `start + 16`, with the byte count from `start` to `elen`, and no other bit. -/
def Obligations.LengthPatchOverwritesField : Prop :=
  ∀ (s : State) (i : Instr) (start hdrBits w : Nat),
    (i = .eMsglen start ∧ hdrBits = 80 ∧ w = 32) ∨ (i = .eTlvlen start ∧ hdrBits = 32 ∧ w = 16) →
    (s.elen < start + hdrBits → exec i s = .next { s with resp := failResp .badOperand start }) ∧
    (start + hdrBits ≤ s.elen → (s.elen - start) % 8 ≠ 0 →
      exec i s = .next { s with resp := failResp .notByteAligned ((s.elen - start) % 8) }) ∧
    (start + hdrBits ≤ s.elen → (s.elen - start) % 8 = 0 → 2 ^ w - 1 < (s.elen - start) / 8 →
      exec i s = .next { s with resp := failResp .overflow ((s.elen - start) / 8) }) ∧
    (start + hdrBits ≤ s.elen → (s.elen - start) % 8 = 0 → (s.elen - start) / 8 ≤ 2 ^ w - 1 →
      ∃ t, exec i s = .next t ∧ t = { s with ebits := t.ebits, resp := okResp (.length ((s.elen - start) / 8)) } ∧
        t.elen = s.elen ∧ memValue t.ebits (start + 16) w = (s.elen - start) / 8 ∧
        ∀ k, k < start + 16 ∨ start + 16 + w ≤ k → t.ebits[k]? = s.ebits[k]?)

/-- R247: a message encoded with `E.MSGHDR`, any whole-byte body and `E.MSGLEN`, read out and loaded, decodes to the
same version, type and id, with `length` the exact number of bytes and `end` the length of the buffer. -/
def Obligations.MessageRoundTrip : Prop :=
  ∀ (s : State) (ver type id : Nat) (body : List Bool), ver ≤ 7 → type ≤ 1023 → id ≤ 2 ^ 32 - 1 →
    body.length % 8 = 0 → 10 + body.length / 8 ≤ 2 ^ 32 - 1 → Fits s.cfg.ecapBits (80 + body.length) →
    Fits s.cfg.dcapBits (80 + body.length) →
    ∃ s0 t, exec .eNew s = .next s0 ∧ exec (.eMsghdr ver type id) s0 = .next t ∧ t.resp = okResp (.start 0) ∧
      ∀ u : State, u = { t with ebits := t.ebits ++ body, resp := u.resp } →
        ∃ (bs : List Byte) (u1 u2 u3 u4 : State), exec (.eMsglen 0) u = .next u1 ∧
          u1.resp = okResp (.length (10 + body.length / 8)) ∧ exec .eRead u1 = .next u2 ∧ u2.resp = okResp (.bytes bs) ∧
          bs.length = 10 + body.length / 8 ∧ exec (.dLoad bs) u2 = .next u3 ∧
          exec (.dMsghdr type) u3 = .next u4 ∧
          u4.resp = okResp (.msgHeader ver type bs.length id 0 u4.dlen) ∧ u4.dlen = 8 * bs.length

/-- R273 for TLV: a parameter encoded with `E.TLVHDR`, any whole-byte value and `E.TLVLEN` carries the length 4 plus its
value bytes, and `D.PARHDR` on the bytes returns its type, that length and the offset where the value ends. The spec
marks R273 as derived. -/
def Obligations.ParameterRoundTrip : Prop :=
  ∀ (s : State) (type : Nat) (value : List Bool), type ≤ 1023 → value.length % 8 = 0 →
    4 + value.length / 8 ≤ 65535 → Fits s.cfg.ecapBits (32 + value.length) → Fits s.cfg.dcapBits (32 + value.length) →
    ∃ s0 t, exec .eNew s = .next s0 ∧ exec (.eTlvhdr type) s0 = .next t ∧ t.resp = okResp (.start 0) ∧
      ∀ u : State, u = { t with ebits := t.ebits ++ value, resp := u.resp } →
        ∃ (bs : List Byte) (u1 u2 u3 u4 : State), exec (.eTlvlen 0) u = .next u1 ∧
          u1.resp = okResp (.length (4 + value.length / 8)) ∧ exec .eRead u1 = .next u2 ∧
          u2.resp = okResp (.bytes bs) ∧ exec (.dLoad bs) u2 = .next u3 ∧ exec .dParhdr u3 = .next u4 ∧
          u4.resp = okResp (.tlvHeader type (4 + value.length / 8) 0 (8 * (4 + value.length / 8))) ∧
          u4.dlen = 8 * (4 + value.length / 8)

/-! ## Reassembler -/

/-- R291, R301: `R.OPEN` and `R.CLOSE` empty the reassembler, in any state, with no event, and leave it awaiting a header or
closed; no operation but `R.OPEN` and `RESET` leaves `Closed`. The header bytes, which are never read while `hcnt` is 0, are
not spoken of. -/
def Obligations.OpenAndCloseEmptyReassembler : Prop :=
  ∀ s : State,
    (∃ t, exec .rOpen s = .next t ∧
      t = { s with
        rstate := .awaitingHeader, hdr := t.hdr, hcnt := 0, mbuf := [], mlen := 0, resp := okResp .absent }) ∧
    (∃ t, exec .rClose s = .next t ∧
      t = { s with rstate := .closed, hdr := t.hdr, hcnt := 0, mbuf := [], mlen := 0, resp := okResp .absent }) ∧
    ∀ (i : Instr) (t : State), s.rstate = .closed → exec i s = .next t → t.rstate ≠ .closed → i = .rOpen ∨ i = .reset

/-- R296, R297: the reassembler reads the ten header bytes by the layout of R90, and validates them: the first condition
that fails, in the order version, type, length below 10, length above the ceiling, gives the cause number. -/
def Obligations.HeaderParseAndValidation : Prop :=
  (∀ h : List Byte, 10 ≤ h.length →
    parseHeader h = ⟨memValue (bytesToBits h) 3 3, memValue (bytesToBits h) 6 10, memValue (bytesToBits h) 16 32,
      memValue (bytesToBits h) 48 32⟩) ∧
  ∀ (cfg : Config) (h : Header),
    (h.ver ≠ cfg.supportedVersion.toNat → ∃ c, validate cfg h = some c ∧ c.number = 1) ∧
    (h.ver = cfg.supportedVersion.toNat →
      (127 < h.type ∧ h.type ≠ 1023 → ∃ c, validate cfg h = some c ∧ c.number = 2) ∧
      (h.type ≤ 127 ∨ h.type = 1023 →
        (h.length < 10 → ∃ c, validate cfg h = some c ∧ c.number = 3) ∧
        (10 ≤ h.length → cfg.maxMsgLen < h.length → ∃ c, validate cfg h = some c ∧ c.number = 4) ∧
        (10 ≤ h.length → h.length ≤ cfg.maxMsgLen → validate cfg h = none)))

/-- R292 to R294, R298, R303: what one byte does in each state. In `Closed` it is discarded; in `AwaitingHeader` it is collected, or it completes
the header, which is then put out as a message of ten bytes, or opens a body, or is refused; in `AwaitingBody` it is
collected, or it completes the message. -/
def Obligations.FeedByteTransitions : Prop :=
  ∀ (s : State) (b : Byte),
    (s.rstate = .closed → exec (.rFeed b) s = .next { s with resp := failResp .closed 1 }) ∧
    (s.rstate = .awaitingHeader → s.hcnt < 9 →
      ∃ t, exec (.rFeed b) s = .next t ∧
        t = { s with hdr := t.hdr, hcnt := s.hcnt + 1, resp := okResp (.events []) } ∧
        t.hdr.toList.take (s.hcnt + 1) = s.hdr.toList.take s.hcnt ++ [b]) ∧
    (s.rstate = .awaitingHeader → s.hcnt = 9 →
      ∀ h : List Byte, h = s.hdr.toList.take 9 ++ [b] →
      (∀ c, validate s.cfg (parseHeader h) = some c →
        ∃ t, exec (.rFeed b) s = .next t ∧
          t = { s with
            rstate := .closed, hdr := t.hdr, hcnt := 0, rout := s.rout ++ [.framingFault c]
            resp := some ⟨.framingFault, c.number, .events [.framingFault c]⟩ }) ∧
      (validate s.cfg (parseHeader h) = none → (parseHeader h).length = 10 →
        ∃ t, exec (.rFeed b) s = .next t ∧
          t = { s with
            hdr := t.hdr, hcnt := 0, rout := s.rout ++ [.messageComplete h]
            resp := okResp (.events [.messageComplete h]) }) ∧
      (validate s.cfg (parseHeader h) = none → (parseHeader h).length ≠ 10 →
        ∃ t, exec (.rFeed b) s = .next t ∧
          t = { s with
            rstate := .awaitingBody, hdr := t.hdr, hcnt := 0, mbuf := h, mlen := (parseHeader h).length
            resp := okResp (.events []) })) ∧
    (s.rstate = .awaitingBody → s.mcnt + 1 ≠ s.mlen →
      exec (.rFeed b) s = .next { s with mbuf := s.mbuf ++ [b], resp := okResp (.events []) }) ∧
    (s.rstate = .awaitingBody → s.mcnt + 1 = s.mlen →
      exec (.rFeed b) s = .next { s with
        rstate := .awaitingHeader, mbuf := [], mlen := 0, rout := s.rout ++ [.messageComplete (s.mbuf ++ [b])]
        resp := okResp (.events [.messageComplete (s.mbuf ++ [b])]) })

/-- R295, with the effect and info of R344: bytes fed to a closed reassembler are discarded; the response says how many,
with no events, and no state changes. -/
def Obligations.ClosedReassemblerDiscards : Prop :=
  ∀ (s : State) (b : Byte) (bytes : List Byte), s.rstate = .closed →
    exec (.rFeed b) s = .next { s with resp := failResp .closed 1 } ∧
    exec (.rFeedn bytes) s = .next { s with resp := failResp .closed bytes.length }

/-- R299: in `Closed`, `R.FEEDN` discards its bytes; else it is the fold of `R.FEED` over its bytes, stopped at a framing fault, whose response then carries all the
events of the chunk. -/
def Obligations.FeedChunkFoldsFeedByte : Prop :=
  ∀ (s : State) (b : Byte) (rest : List Byte),
    (s.rstate = .closed →
      ∀ bytes : List Byte, exec (.rFeedn bytes) s = .next { s with resp := failResp .closed bytes.length }) ∧
    (s.rstate ≠ .closed →
      exec (.rFeedn []) s = .next { s with resp := okResp (.events []) } ∧
      ∃ (t v : State) (st : Status) (info : Nat) (first : List Event), exec (.rFeed b) s = .next t ∧
        t.resp = some ⟨st, info, .events first⟩ ∧ exec (.rFeedn (b :: rest)) s = .next v ∧
        (st = .framingFault → v = t) ∧
        (st ≠ .framingFault → st = .ok ∧
          ∃ (u : State) (st' : Status) (info' : Nat) (later : List Event), exec (.rFeedn rest) t = .next u ∧
            u.resp = some ⟨st', info', .events later⟩ ∧
            v = { u with resp := some ⟨st', info', .events (first ++ later)⟩ }))

/-- R300: how a byte sequence is cut into chunks does not matter: chunks fed with `R.FEEDN`, in any two cuttings, and the
bytes fed with `R.FEED`, append the same events and end in the same state, whatever the responses. -/
def Obligations.ChunkingDoesNotMatter : Prop :=
  ∀ (s : State) (chunks : List (List Byte)),
    ∃ rs t rs' t' u, runOps (chunks.map .rFeedn) s = some (rs, t) ∧
      runOps (chunks.flatten.map .rFeed) s = some (rs', t') ∧ exec (.rFeedn chunks.flatten) s = .next u ∧
      { t with resp := none } = { u with resp := none } ∧ { t' with resp := none } = { u with resp := none }

/-- R304, first sentence: if no framing fault occurs, the bytes held at the start, followed by the bytes fed, are the
bytes of the messages put out, in order, followed by the bytes held at the end. From `R.OPEN` or `RESET` on, nothing is
held at the start. The spec marks R304 as derived. -/
def Obligations.MessagesAreSlicesOfStream : Prop :=
  ∀ (s : State) (chunks : List (List Byte)), Inv s → s.rstate ≠ .closed →
    ∃ rs t events, runOps (chunks.map .rFeedn) s = some (rs, t) ∧ t.rout = s.rout ++ events ∧
      ((∀ c, Event.framingFault c ∉ events) →
        messageBytes events ++ heldBytes t = heldBytes s ++ chunks.flatten)

/-- R304, second sentence, as an invariant: if every message put out so far has its own length in its length field, a
length of 10 to `MAX_MSG_LEN`, the supported version and a type in range, then so has every message after any step. The
spec marks R304 as derived. -/
def Obligations.EmittedMessagesStayValid : Prop :=
  ∀ s t : State, Inv s → EmittedOk s → step s = .next t → EmittedOk t

/-- R304, last sentence: a whole message, loaded and decoded with its own type, is decoded to its end. The spec marks
R304 as derived. -/
def Obligations.EmittedMessagesDecode : Prop :=
  ∀ (s : State) (m : List Byte), messageOk s.cfg m = true → Fits s.cfg.dcapBits (8 * m.length) →
    ∃ t u, exec (.dLoad m) s = .next t ∧ exec (.dMsghdr (parseHeader m).type) t = .next u ∧
      u.resp = okResp (.msgHeader (parseHeader m).ver (parseHeader m).type m.length (parseHeader m).id 0 (8 * m.length))

/-- R305: once the reassembler is closed, no operation but `R.OPEN` and `RESET` adds to `rout` or opens it again. The
spec marks R305 as derived. -/
def Obligations.FramingFaultIsFinal : Prop :=
  ∀ (s : State) (ops : List Instr), s.rstate = .closed → (∀ i ∈ ops, i ≠ .rOpen ∧ i ≠ .reset) →
    ∃ rs t, runOps ops s = some (rs, t) ∧ t.rout = s.rout ∧ t.rstate = .closed

/-- The five wire layouts of R90 to R94: each is the `R.FEEDN` of the bytes in which its fields stand at the offsets of its
rule. That a layout row means the arrival of its bytes is the model's choice (log entry 1). -/
def Obligations.WireLayoutsArriveAsBytes : Prop :=
  ∀ s : State, s.rstate ≠ .closed →
    (∀ (reserved ver : BitVec 3) (type : BitVec 10) (length id : BitVec 32), ∃ bs t evs,
      exec (.msghdr reserved ver type length id) s = .next t ∧ exec (.rFeedn bs) s = .next t ∧
      Puts s t evs ∧ bs.length = 10 ∧ memValue (bytesToBits bs) 0 3 = reserved.toNat ∧
      memValue (bytesToBits bs) 3 3 = ver.toNat ∧ memValue (bytesToBits bs) 6 10 = type.toNat ∧
      memValue (bytesToBits bs) 16 32 = length.toNat ∧ memValue (bytesToBits bs) 48 32 = id.toNat) ∧
    (∀ type : BitVec 7, ∃ bs t evs,
      exec (.tvhdr type) s = .next t ∧ exec (.rFeedn bs) s = .next t ∧ Puts s t evs ∧ bs.length = 1 ∧
      memValue (bytesToBits bs) 0 1 = 1 ∧ memValue (bytesToBits bs) 1 7 = type.toNat) ∧
    (∀ (reserved : BitVec 5) (type : BitVec 10) (length : BitVec 16), ∃ bs t evs,
      exec (.tlvhdr reserved type length) s = .next t ∧ exec (.rFeedn bs) s = .next t ∧ Puts s t evs ∧
      bs.length = 4 ∧ memValue (bytesToBits bs) 0 1 = 0 ∧ memValue (bytesToBits bs) 1 5 = reserved.toNat ∧
      memValue (bytesToBits bs) 6 10 = type.toNat ∧ memValue (bytesToBits bs) 16 16 = length.toNat) ∧
    (∀ (vendor : BitVec 32) (subtype : BitVec 8) (tail : List Byte), ∃ bs t evs,
      exec (.custmsgBody vendor subtype tail) s = .next t ∧ exec (.rFeedn (bs ++ tail)) s = .next t ∧
      Puts s t evs ∧ bs.length = 5 ∧ memValue (bytesToBits bs) 0 32 = vendor.toNat ∧
      memValue (bytesToBits bs) 32 8 = subtype.toNat) ∧
    ∀ (vendor subtype : BitVec 32) (tail : List Byte), ∃ bs t evs,
      exec (.custparBody vendor subtype tail) s = .next t ∧ exec (.rFeedn (bs ++ tail)) s = .next t ∧
      Puts s t evs ∧ bs.length = 8 ∧ memValue (bytesToBits bs) 0 32 = vendor.toNat ∧
      memValue (bytesToBits bs) 32 32 = subtype.toNat

/-! ## The whole machine -/

/-- R22, R25, R27, R28, R30: the invariant between two operations is kept by every step, from every state that has it. -/
def Obligations.EveryStepKeepsInvariant : Prop :=
  ∀ s t : State, Inv s → step s = .next t → Inv t

/-- The state after reset has the invariant, and no message that is not whole has been put out. -/
def Obligations.ResetStateHasInvariant : Prop :=
  Inv State.reset ∧ EmittedOk State.reset

/-- R346 from left to right, with R333 and R358: every instruction, in every state, answers a next state whose response
has the status `OK` or one that the matrix marks; so never `MalformedField`, `ProtocolError` or `Timeout`. The spec
marks R346 and R358 as derived; a wire layout has the row of `R.FEEDN` (log entry 1). -/
def Obligations.StatusesStayInsideMatrix : Prop :=
  ∀ (i : Instr) (s : State), ∃ t r, exec i s = .next t ∧ t.resp = some r ∧ (r.status = .ok ∨ r.status ∈ marked i) ∧
    r.status ≠ .malformedField ∧ r.status ≠ .protocolError ∧ r.status ≠ .timeout

/-- R346 from right to left: for every marked cell there are operands and a state for which the operation returns the
status, and `OK` is possible for every operation. The spec marks R346 as derived. -/
def Obligations.EveryMarkedStatusIsReached : Prop :=
  ∀ (i : Instr) (st : Status), opCode i ≠ none → st = .ok ∨ st ∈ marked i →
    ∃ (j : Instr) (s t : State) (r : Response), opCode j = opCode i ∧ exec j s = .next t ∧ t.resp = some r ∧
      r.status = st

/-- R31, the write column, with R23, R25 and R30: an operation changes only its own unit's part of the state, `DBUF`'s
bits change only by `D.LOAD`, and no operation changes the configuration. The spec marks R31 and R23 as derived; a wire
layout is input to the reassembler (log entry 1). -/
def Obligations.OperationsChangeOnlyTheirUnit : Prop :=
  ∀ (i : Instr) (s t : State), exec i s = .next t →
    (unitOf i = .decodeSide → t = { s with dbits := t.dbits, dcur := t.dcur, resp := t.resp }) ∧
    (unitOf i = .decodeSide → (∀ bytes, i ≠ .dLoad bytes) → t.dbits = s.dbits) ∧
    (unitOf i = .encodeSide → t = { s with ebits := t.ebits, resp := t.resp }) ∧
    (unitOf i = .reassembler →
      t = { s with
        rstate := t.rstate, hdr := t.hdr, hcnt := t.hcnt, mbuf := t.mbuf, mlen := t.mlen, rout := t.rout
        resp := t.resp }) ∧
    (unitOf i = .whole →
      t = { s with
        dbits := t.dbits, dcur := t.dcur, ebits := t.ebits, rstate := t.rstate, hdr := t.hdr, hcnt := t.hcnt
        mbuf := t.mbuf, mlen := t.mlen, resp := t.resp })

/-- R31, last sentence: operations of two different units commute: either order gives the same final state and the same
responses. The spec marks R31 as derived; that a wire layout counts as an operation of the reassembler is the model's
choice (log entry 1). -/
def Obligations.OperationsOfDifferentUnitsCommute : Prop :=
  ∀ (i j : Instr) (s : State), unitOf i ≠ unitOf j → unitOf i ≠ .whole → unitOf j ≠ .whole →
    ∃ si sij sj sji, exec i s = .next si ∧ exec j si = .next sij ∧ exec j s = .next sj ∧ exec i sj = .next sji ∧
      si.resp = sji.resp ∧ sj.resp = sij.resp ∧ { sij with resp := none } = { sji with resp := none }

/-- R348: what a failed operation can leave changed: the cursor, advanced by a composite decode operation only; and, by a framing
fault, the reassembler's variables and `rout`, where `R.FEED` leaves the body buffer alone. -/
def Obligations.FailuresChangeOnlyWhatTheyMay : Prop :=
  ∀ (i : Instr) (s t : State) (r : Response), exec i s = .next t → t.resp = some r → r.status ≠ .ok →
    (r.status ≠ .framingFault → t = { s with dcur := t.dcur, resp := t.resp }) ∧
    (r.status = .framingFault →
      t = { s with
        rstate := .closed, hdr := t.hdr, hcnt := 0, mbuf := t.mbuf, mlen := t.mlen, rout := t.rout
        resp := t.resp }) ∧
    (∀ b, i = .rFeed b → t.mbuf = s.mbuf ∧ t.mlen = s.mlen) ∧
    s.dcur ≤ t.dcur ∧
    (t.dcur ≠ s.dcur →
      (∃ exp, i = .dMsghdr exp) ∨ i = .dParhdr ∨ (∃ e, i = .dCustmsg e) ∨ ∃ e, i = .dCustpar e)

/-- R21, R29: no operation reads the response of an earlier one or the events put out before: changing either changes
nothing in what the operation does, and the events it puts out go to the end of `rout`. That the last response stands in
the state is the model's choice (log entry 4). -/
def Obligations.ResponsesAndEventsAreNotRead : Prop :=
  ∀ (i : Instr) (s : State) (resp : Option Response) (before : List Event),
    ∃ t t' new, exec i s = .next t ∧ exec i { s with resp := resp, rout := before } = .next t' ∧
      t.rout = s.rout ++ new ∧ t'.rout = before ++ new ∧ t' = { t with rout := before ++ new }
end

