-- ==== Sys2Proof/Laws/Bits.lean ====
section
/-! SUPPORT. Laws of bit strings: lengths, values, and reads of strings put together from parts. -/

namespace Sys2Proof.Machine

/-! ## Lengths -/

@[simp] theorem length_natToBits (n v : Nat) : (natToBits n v).length = n := by
  induction n with
  | zero => rfl
  | succ n ih => simp [natToBits, ih]

@[simp] theorem length_byteToBits (b : Byte) : (byteToBits b).length = 8 := by
  simp [byteToBits]

@[simp] theorem length_bytesToBits (l : List Byte) : (bytesToBits l).length = 8 * l.length := by
  induction l with
  | nil => rfl
  | cons b l ih =>
    have h : bytesToBits (b :: l) = byteToBits b ++ bytesToBits l := rfl
    simp [h, ih]; omega

@[simp] theorem length_wordsToBits (l : List Word) : (wordsToBits l).length = 16 * l.length := by
  induction l with
  | nil => rfl
  | cons w l ih =>
    have h : wordsToBits (w :: l) = natToBits 16 w.toNat ++ wordsToBits l := rfl
    simp [h, ih]; omega

@[simp] theorem length_readBytes (bits : List Bool) (off n : Nat) : (readBytes bits off n).length = n := by
  simp [readBytes]

@[simp] theorem length_readWords (bits : List Bool) (off n : Nat) : (readWords bits off n).length = n := by
  simp [readWords]

theorem le_ceil8 (n : Nat) : n ≤ ceil8 n := by
  unfold ceil8; omega

theorem ceil8_lt (n : Nat) : ceil8 n < n + 8 := by
  unfold ceil8; omega

@[simp] theorem length_padding (n : Nat) : n + (padding n).length = ceil8 n := by
  have := le_ceil8 n
  simp [padding]; omega

theorem length_memWrite (bits : List Bool) (off n v : Nat) (h : off + n ≤ bits.length) :
    (memWrite bits off n v).length = bits.length := by
  simp [memWrite]; omega

/-! ## Values -/

@[simp] theorem bitsToNat_nil : bitsToNat [] = 0 := rfl

theorem bitsToNat_foldl (l : List Bool) (acc : Nat) :
    l.foldl (fun a b => a * 2 + b.toNat) acc = acc * 2 ^ l.length + bitsToNat l := by
  induction l generalizing acc with
  | nil => simp
  | cons b l ih =>
    have h : bitsToNat (b :: l) = l.foldl (fun a b => a * 2 + b.toNat) (0 * 2 + b.toNat) := rfl
    rw [h, List.foldl_cons, ih, ih]
    simp [pow_succ]; ring

theorem bitsToNat_cons (b : Bool) (l : List Bool) :
    bitsToNat (b :: l) = b.toNat * 2 ^ l.length + bitsToNat l := by
  have h : bitsToNat (b :: l) = l.foldl (fun a b => a * 2 + b.toNat) (0 * 2 + b.toNat) := rfl
  rw [h, bitsToNat_foldl]; simp

theorem bitsToNat_append (l m : List Bool) :
    bitsToNat (l ++ m) = bitsToNat l * 2 ^ m.length + bitsToNat m := by
  induction l with
  | nil => simp
  | cons b l ih => simp [bitsToNat_cons, ih, pow_add]; ring

theorem bitsToNat_lt (l : List Bool) : bitsToNat l < 2 ^ l.length := by
  induction l with
  | nil => simp
  | cons b l ih =>
    rw [bitsToNat_cons, List.length_cons, pow_succ]
    cases b <;> simp <;> omega

/-- Writing the low `n` bits of a number and reading them back. -/
@[simp] theorem bitsToNat_natToBits (n v : Nat) : bitsToNat (natToBits n v) = v % 2 ^ n := by
  induction n with
  | zero => simp [natToBits, Nat.mod_one]
  | succ n ih =>
    rw [natToBits, bitsToNat_cons, ih, length_natToBits, Nat.testBit_eq_decide_div_mod_eq, pow_succ,
      Nat.mod_mul]
    rcases Nat.mod_two_eq_zero_or_one (v / 2 ^ n) with h | h
    · simp [h]
    · simp [h]; ring

/-- A bit string is what its value writes. -/
@[simp] theorem natToBits_bitsToNat (l : List Bool) : natToBits l.length (bitsToNat l) = l := by
  induction l with
  | nil => rfl
  | cons b l ih =>
    have hl := bitsToNat_lt l
    have low : ∀ n a v, n ≤ l.length → natToBits n (a * 2 ^ l.length + v) = natToBits n v := by
      intro n a v hn
      induction n with
      | zero => rfl
      | succ n ihn =>
        rw [natToBits, natToBits, ihn (by omega)]
        congr 1
        rw [Nat.testBit_eq_decide_div_mod_eq, Nat.testBit_eq_decide_div_mod_eq]
        obtain ⟨d, hd⟩ : ∃ d, l.length = n + (d + 1) := ⟨l.length - n - 1, by omega⟩
        rw [hd, pow_add, pow_succ, show a * (2 ^ n * (2 ^ d * 2)) = 2 ^ n * (a * 2 ^ d * 2) by ring,
          Nat.mul_add_div (by positivity), Nat.mul_add_mod']
    rw [List.length_cons, natToBits, bitsToNat_cons, low _ _ _ le_rfl, ih]
    congr 1
    rw [Nat.testBit_eq_decide_div_mod_eq, Nat.add_comm, Nat.add_mul_div_right _ _ (by positivity),
      Nat.div_eq_of_lt hl]
    cases b <;> rfl

/-! ## Reads -/

theorem memRead_lt (bits : List Bool) (off n : Nat) : memRead bits off n < 2 ^ n := by
  refine lt_of_lt_of_le (bitsToNat_lt _) (Nat.pow_le_pow_right (by decide) ?_)
  simp

@[simp] theorem memRead_zero (bits : List Bool) (off : Nat) : memRead bits off 0 = 0 := by
  simp [memRead]

/-- A read inside the first part of a buffer does not see the second. -/
theorem memRead_append_left (l m : List Bool) (off n : Nat) (h : off + n ≤ l.length) :
    memRead (l ++ m) off n = memRead l off n := by
  unfold memRead
  rw [List.drop_append_of_le_length (by omega), List.take_append_of_le_length (by simp; omega)]

/-- A read past the first part of a buffer is a read of the second. -/
theorem memRead_append_right (l m : List Bool) (off n : Nat) :
    memRead (l ++ m) (l.length + off) n = memRead m off n := by
  unfold memRead
  rw [List.drop_append, List.drop_eq_nil_of_le (by omega)]
  simp

/-- A read of exactly the middle part of a buffer. -/
theorem memRead_middle (l m r : List Bool) : memRead (l ++ m ++ r) l.length m.length = bitsToNat m := by
  unfold memRead
  simp

end Sys2Proof.Machine
end

