-- ==== Sys2Proof/Laws/Decode.lean ====
section
/-! SUPPORT. What the wire part of the decoder answers for each layout, for any number `w` of its width. (Stated for a
variable `w`: with the sum of the fields in its place the kernel would compute on numbers of 80 bits.) -/

namespace Sys2Proof

/-- The low `n` bits of a number, as the field they came from. -/
theorem field_eq {n : Nat} (b : BitVec n) (w : Nat) (h : w % 2 ^ n = b.toNat) : BitVec.ofNat n w = b := by
  apply BitVec.eq_of_toNat_eq
  simpa using h

theorem decode_of_wire {nbits w : Nat} {tail : List Byte} {i : Instr} (h : decodeWire nbits w tail = some i) :
    decode (.wire nbits w tail) = .ok i := by
  simp [decode, h]

theorem decodeWire_msghdr (w : Nat) (h : w < 2 ^ 80) :
    decodeWire 80 w [] = some (.msghdr (BitVec.ofNat 3 (w / 2 ^ 77)) (BitVec.ofNat 3 (w / 2 ^ 74))
      (BitVec.ofNat 10 (w / 2 ^ 64)) (BitVec.ofNat 32 (w / 2 ^ 32)) (BitVec.ofNat 32 w)) := by
  unfold decodeWire
  rw [if_neg (by omega), if_pos ⟨rfl, rfl⟩]

theorem decodeWire_tvhdr (w : Nat) (h : w < 2 ^ 8) (h7 : w / 2 ^ 7 = 1) :
    decodeWire 8 w [] = some (.tvhdr (BitVec.ofNat 7 w)) := by
  unfold decodeWire
  rw [if_neg (by omega), if_neg (by simp), if_pos ⟨rfl, rfl, h7⟩]

theorem decodeWire_tlvhdr (w : Nat) (h : w < 2 ^ 32) (h31 : w / 2 ^ 31 = 0) :
    decodeWire 32 w [] = some (.tlvhdr (BitVec.ofNat 5 (w / 2 ^ 26)) (BitVec.ofNat 10 (w / 2 ^ 16)) (BitVec.ofNat 16 w)) := by
  unfold decodeWire
  rw [if_neg (by omega), if_neg (by simp), if_neg (by simp), if_pos ⟨rfl, rfl, h31⟩]

theorem decodeWire_custmsgBody (w : Nat) (tail : List Byte) (h : w < 2 ^ 40) :
    decodeWire 40 w tail = some (.custmsgBody (BitVec.ofNat 32 (w / 2 ^ 8)) (BitVec.ofNat 8 w) tail) := by
  unfold decodeWire
  rw [if_neg (by omega), if_neg (by simp), if_neg (by simp), if_neg (by simp), if_pos rfl]

theorem decodeWire_custparBody (w : Nat) (tail : List Byte) (h : w < 2 ^ 64) :
    decodeWire 64 w tail = some (.custparBody (BitVec.ofNat 32 (w / 2 ^ 32)) (BitVec.ofNat 32 w) tail) := by
  unfold decodeWire
  rw [if_neg (by omega), if_neg (by simp), if_neg (by simp), if_neg (by simp), if_neg (by simp), if_pos rfl]

end Sys2Proof
end

