-- ==== Sys2Proof/Laws/State.lean ====
section
/-! SUPPORT. One lemma for each field and each update of the state, so that no later proof unfolds an update. -/

namespace Sys2Proof.Machine.State

variable (s : State)

@[simp] theorem setDbuf_cfg (bits : List Bool) (cur : Nat) : (s.setDbuf bits cur).cfg = s.cfg := rfl
@[simp] theorem setDbuf_dbits (bits : List Bool) (cur : Nat) : (s.setDbuf bits cur).dbits = bits := rfl
@[simp] theorem setDbuf_dcur (bits : List Bool) (cur : Nat) : (s.setDbuf bits cur).dcur = cur := rfl
@[simp] theorem setDbuf_ebits (bits : List Bool) (cur : Nat) : (s.setDbuf bits cur).ebits = s.ebits := rfl
@[simp] theorem setDbuf_rstate (bits : List Bool) (cur : Nat) : (s.setDbuf bits cur).rstate = s.rstate := rfl
@[simp] theorem setDbuf_hdr (bits : List Bool) (cur : Nat) : (s.setDbuf bits cur).hdr = s.hdr := rfl
@[simp] theorem setDbuf_hcnt (bits : List Bool) (cur : Nat) : (s.setDbuf bits cur).hcnt = s.hcnt := rfl
@[simp] theorem setDbuf_mbuf (bits : List Bool) (cur : Nat) : (s.setDbuf bits cur).mbuf = s.mbuf := rfl
@[simp] theorem setDbuf_mlen (bits : List Bool) (cur : Nat) : (s.setDbuf bits cur).mlen = s.mlen := rfl
@[simp] theorem setDbuf_rout (bits : List Bool) (cur : Nat) : (s.setDbuf bits cur).rout = s.rout := rfl
@[simp] theorem setDbuf_pending (bits : List Bool) (cur : Nat) : (s.setDbuf bits cur).pending = s.pending := rfl
@[simp] theorem setDbuf_resp (bits : List Bool) (cur : Nat) : (s.setDbuf bits cur).resp = s.resp := rfl
@[simp] theorem setDbuf_dlen (bits : List Bool) (cur : Nat) : (s.setDbuf bits cur).dlen = (bits).length := rfl
@[simp] theorem setDbuf_elen (bits : List Bool) (cur : Nat) : (s.setDbuf bits cur).elen = s.elen := rfl
@[simp] theorem setDbuf_mcnt (bits : List Bool) (cur : Nat) : (s.setDbuf bits cur).mcnt = s.mcnt := rfl

@[simp] theorem setDcur_cfg (cur : Nat) : (s.setDcur cur).cfg = s.cfg := rfl
@[simp] theorem setDcur_dbits (cur : Nat) : (s.setDcur cur).dbits = s.dbits := rfl
@[simp] theorem setDcur_dcur (cur : Nat) : (s.setDcur cur).dcur = cur := rfl
@[simp] theorem setDcur_ebits (cur : Nat) : (s.setDcur cur).ebits = s.ebits := rfl
@[simp] theorem setDcur_rstate (cur : Nat) : (s.setDcur cur).rstate = s.rstate := rfl
@[simp] theorem setDcur_hdr (cur : Nat) : (s.setDcur cur).hdr = s.hdr := rfl
@[simp] theorem setDcur_hcnt (cur : Nat) : (s.setDcur cur).hcnt = s.hcnt := rfl
@[simp] theorem setDcur_mbuf (cur : Nat) : (s.setDcur cur).mbuf = s.mbuf := rfl
@[simp] theorem setDcur_mlen (cur : Nat) : (s.setDcur cur).mlen = s.mlen := rfl
@[simp] theorem setDcur_rout (cur : Nat) : (s.setDcur cur).rout = s.rout := rfl
@[simp] theorem setDcur_pending (cur : Nat) : (s.setDcur cur).pending = s.pending := rfl
@[simp] theorem setDcur_resp (cur : Nat) : (s.setDcur cur).resp = s.resp := rfl
@[simp] theorem setDcur_dlen (cur : Nat) : (s.setDcur cur).dlen = s.dlen := rfl
@[simp] theorem setDcur_elen (cur : Nat) : (s.setDcur cur).elen = s.elen := rfl
@[simp] theorem setDcur_mcnt (cur : Nat) : (s.setDcur cur).mcnt = s.mcnt := rfl

@[simp] theorem setEbits_cfg (bits : List Bool) : (s.setEbits bits).cfg = s.cfg := rfl
@[simp] theorem setEbits_dbits (bits : List Bool) : (s.setEbits bits).dbits = s.dbits := rfl
@[simp] theorem setEbits_dcur (bits : List Bool) : (s.setEbits bits).dcur = s.dcur := rfl
@[simp] theorem setEbits_ebits (bits : List Bool) : (s.setEbits bits).ebits = bits := rfl
@[simp] theorem setEbits_rstate (bits : List Bool) : (s.setEbits bits).rstate = s.rstate := rfl
@[simp] theorem setEbits_hdr (bits : List Bool) : (s.setEbits bits).hdr = s.hdr := rfl
@[simp] theorem setEbits_hcnt (bits : List Bool) : (s.setEbits bits).hcnt = s.hcnt := rfl
@[simp] theorem setEbits_mbuf (bits : List Bool) : (s.setEbits bits).mbuf = s.mbuf := rfl
@[simp] theorem setEbits_mlen (bits : List Bool) : (s.setEbits bits).mlen = s.mlen := rfl
@[simp] theorem setEbits_rout (bits : List Bool) : (s.setEbits bits).rout = s.rout := rfl
@[simp] theorem setEbits_pending (bits : List Bool) : (s.setEbits bits).pending = s.pending := rfl
@[simp] theorem setEbits_resp (bits : List Bool) : (s.setEbits bits).resp = s.resp := rfl
@[simp] theorem setEbits_dlen (bits : List Bool) : (s.setEbits bits).dlen = s.dlen := rfl
@[simp] theorem setEbits_elen (bits : List Bool) : (s.setEbits bits).elen = (bits).length := rfl
@[simp] theorem setEbits_mcnt (bits : List Bool) : (s.setEbits bits).mcnt = s.mcnt := rfl

@[simp] theorem setHdr_cfg (hdr : Vector Byte 10) (hcnt : Nat) : (s.setHdr hdr hcnt).cfg = s.cfg := rfl
@[simp] theorem setHdr_dbits (hdr : Vector Byte 10) (hcnt : Nat) : (s.setHdr hdr hcnt).dbits = s.dbits := rfl
@[simp] theorem setHdr_dcur (hdr : Vector Byte 10) (hcnt : Nat) : (s.setHdr hdr hcnt).dcur = s.dcur := rfl
@[simp] theorem setHdr_ebits (hdr : Vector Byte 10) (hcnt : Nat) : (s.setHdr hdr hcnt).ebits = s.ebits := rfl
@[simp] theorem setHdr_rstate (hdr : Vector Byte 10) (hcnt : Nat) : (s.setHdr hdr hcnt).rstate = s.rstate := rfl
@[simp] theorem setHdr_hdr (hdr : Vector Byte 10) (hcnt : Nat) : (s.setHdr hdr hcnt).hdr = hdr := rfl
@[simp] theorem setHdr_hcnt (hdr : Vector Byte 10) (hcnt : Nat) : (s.setHdr hdr hcnt).hcnt = hcnt := rfl
@[simp] theorem setHdr_mbuf (hdr : Vector Byte 10) (hcnt : Nat) : (s.setHdr hdr hcnt).mbuf = s.mbuf := rfl
@[simp] theorem setHdr_mlen (hdr : Vector Byte 10) (hcnt : Nat) : (s.setHdr hdr hcnt).mlen = s.mlen := rfl
@[simp] theorem setHdr_rout (hdr : Vector Byte 10) (hcnt : Nat) : (s.setHdr hdr hcnt).rout = s.rout := rfl
@[simp] theorem setHdr_pending (hdr : Vector Byte 10) (hcnt : Nat) : (s.setHdr hdr hcnt).pending = s.pending := rfl
@[simp] theorem setHdr_resp (hdr : Vector Byte 10) (hcnt : Nat) : (s.setHdr hdr hcnt).resp = s.resp := rfl
@[simp] theorem setHdr_dlen (hdr : Vector Byte 10) (hcnt : Nat) : (s.setHdr hdr hcnt).dlen = s.dlen := rfl
@[simp] theorem setHdr_elen (hdr : Vector Byte 10) (hcnt : Nat) : (s.setHdr hdr hcnt).elen = s.elen := rfl
@[simp] theorem setHdr_mcnt (hdr : Vector Byte 10) (hcnt : Nat) : (s.setHdr hdr hcnt).mcnt = s.mcnt := rfl

@[simp] theorem dropHdr_cfg : s.dropHdr.cfg = s.cfg := rfl
@[simp] theorem dropHdr_dbits : s.dropHdr.dbits = s.dbits := rfl
@[simp] theorem dropHdr_dcur : s.dropHdr.dcur = s.dcur := rfl
@[simp] theorem dropHdr_ebits : s.dropHdr.ebits = s.ebits := rfl
@[simp] theorem dropHdr_rstate : s.dropHdr.rstate = s.rstate := rfl
@[simp] theorem dropHdr_hdr : s.dropHdr.hdr = s.hdr := rfl
@[simp] theorem dropHdr_hcnt : s.dropHdr.hcnt = 0 := rfl
@[simp] theorem dropHdr_mbuf : s.dropHdr.mbuf = s.mbuf := rfl
@[simp] theorem dropHdr_mlen : s.dropHdr.mlen = s.mlen := rfl
@[simp] theorem dropHdr_rout : s.dropHdr.rout = s.rout := rfl
@[simp] theorem dropHdr_pending : s.dropHdr.pending = s.pending := rfl
@[simp] theorem dropHdr_resp : s.dropHdr.resp = s.resp := rfl
@[simp] theorem dropHdr_dlen : s.dropHdr.dlen = s.dlen := rfl
@[simp] theorem dropHdr_elen : s.dropHdr.elen = s.elen := rfl
@[simp] theorem dropHdr_mcnt : s.dropHdr.mcnt = s.mcnt := rfl

@[simp] theorem setBody_cfg (rstate : RState) (mbuf : List Byte) (mlen : Nat) : (s.setBody rstate mbuf mlen).cfg = s.cfg := rfl
@[simp] theorem setBody_dbits (rstate : RState) (mbuf : List Byte) (mlen : Nat) : (s.setBody rstate mbuf mlen).dbits = s.dbits := rfl
@[simp] theorem setBody_dcur (rstate : RState) (mbuf : List Byte) (mlen : Nat) : (s.setBody rstate mbuf mlen).dcur = s.dcur := rfl
@[simp] theorem setBody_ebits (rstate : RState) (mbuf : List Byte) (mlen : Nat) : (s.setBody rstate mbuf mlen).ebits = s.ebits := rfl
@[simp] theorem setBody_rstate (rstate : RState) (mbuf : List Byte) (mlen : Nat) : (s.setBody rstate mbuf mlen).rstate = rstate := rfl
@[simp] theorem setBody_hdr (rstate : RState) (mbuf : List Byte) (mlen : Nat) : (s.setBody rstate mbuf mlen).hdr = s.hdr := rfl
@[simp] theorem setBody_hcnt (rstate : RState) (mbuf : List Byte) (mlen : Nat) : (s.setBody rstate mbuf mlen).hcnt = s.hcnt := rfl
@[simp] theorem setBody_mbuf (rstate : RState) (mbuf : List Byte) (mlen : Nat) : (s.setBody rstate mbuf mlen).mbuf = mbuf := rfl
@[simp] theorem setBody_mlen (rstate : RState) (mbuf : List Byte) (mlen : Nat) : (s.setBody rstate mbuf mlen).mlen = mlen := rfl
@[simp] theorem setBody_rout (rstate : RState) (mbuf : List Byte) (mlen : Nat) : (s.setBody rstate mbuf mlen).rout = s.rout := rfl
@[simp] theorem setBody_pending (rstate : RState) (mbuf : List Byte) (mlen : Nat) : (s.setBody rstate mbuf mlen).pending = s.pending := rfl
@[simp] theorem setBody_resp (rstate : RState) (mbuf : List Byte) (mlen : Nat) : (s.setBody rstate mbuf mlen).resp = s.resp := rfl
@[simp] theorem setBody_dlen (rstate : RState) (mbuf : List Byte) (mlen : Nat) : (s.setBody rstate mbuf mlen).dlen = s.dlen := rfl
@[simp] theorem setBody_elen (rstate : RState) (mbuf : List Byte) (mlen : Nat) : (s.setBody rstate mbuf mlen).elen = s.elen := rfl
@[simp] theorem setBody_mcnt (rstate : RState) (mbuf : List Byte) (mlen : Nat) : (s.setBody rstate mbuf mlen).mcnt = (mbuf).length := rfl

@[simp] theorem emit_cfg (e : Event) : (s.emit e).cfg = s.cfg := rfl
@[simp] theorem emit_dbits (e : Event) : (s.emit e).dbits = s.dbits := rfl
@[simp] theorem emit_dcur (e : Event) : (s.emit e).dcur = s.dcur := rfl
@[simp] theorem emit_ebits (e : Event) : (s.emit e).ebits = s.ebits := rfl
@[simp] theorem emit_rstate (e : Event) : (s.emit e).rstate = s.rstate := rfl
@[simp] theorem emit_hdr (e : Event) : (s.emit e).hdr = s.hdr := rfl
@[simp] theorem emit_hcnt (e : Event) : (s.emit e).hcnt = s.hcnt := rfl
@[simp] theorem emit_mbuf (e : Event) : (s.emit e).mbuf = s.mbuf := rfl
@[simp] theorem emit_mlen (e : Event) : (s.emit e).mlen = s.mlen := rfl
@[simp] theorem emit_rout (e : Event) : (s.emit e).rout = s.rout ++ [e] := rfl
@[simp] theorem emit_pending (e : Event) : (s.emit e).pending = s.pending := rfl
@[simp] theorem emit_resp (e : Event) : (s.emit e).resp = s.resp := rfl
@[simp] theorem emit_dlen (e : Event) : (s.emit e).dlen = s.dlen := rfl
@[simp] theorem emit_elen (e : Event) : (s.emit e).elen = s.elen := rfl
@[simp] theorem emit_mcnt (e : Event) : (s.emit e).mcnt = s.mcnt := rfl

@[simp] theorem setResp_cfg (r : Response) : (s.setResp r).cfg = s.cfg := rfl
@[simp] theorem setResp_dbits (r : Response) : (s.setResp r).dbits = s.dbits := rfl
@[simp] theorem setResp_dcur (r : Response) : (s.setResp r).dcur = s.dcur := rfl
@[simp] theorem setResp_ebits (r : Response) : (s.setResp r).ebits = s.ebits := rfl
@[simp] theorem setResp_rstate (r : Response) : (s.setResp r).rstate = s.rstate := rfl
@[simp] theorem setResp_hdr (r : Response) : (s.setResp r).hdr = s.hdr := rfl
@[simp] theorem setResp_hcnt (r : Response) : (s.setResp r).hcnt = s.hcnt := rfl
@[simp] theorem setResp_mbuf (r : Response) : (s.setResp r).mbuf = s.mbuf := rfl
@[simp] theorem setResp_mlen (r : Response) : (s.setResp r).mlen = s.mlen := rfl
@[simp] theorem setResp_rout (r : Response) : (s.setResp r).rout = s.rout := rfl
@[simp] theorem setResp_pending (r : Response) : (s.setResp r).pending = s.pending := rfl
@[simp] theorem setResp_resp (r : Response) : (s.setResp r).resp = some r := rfl
@[simp] theorem setResp_dlen (r : Response) : (s.setResp r).dlen = s.dlen := rfl
@[simp] theorem setResp_elen (r : Response) : (s.setResp r).elen = s.elen := rfl
@[simp] theorem setResp_mcnt (r : Response) : (s.setResp r).mcnt = s.mcnt := rfl

@[simp] theorem setPending_cfg (p : List Item) : (s.setPending p).cfg = s.cfg := rfl
@[simp] theorem setPending_dbits (p : List Item) : (s.setPending p).dbits = s.dbits := rfl
@[simp] theorem setPending_dcur (p : List Item) : (s.setPending p).dcur = s.dcur := rfl
@[simp] theorem setPending_ebits (p : List Item) : (s.setPending p).ebits = s.ebits := rfl
@[simp] theorem setPending_rstate (p : List Item) : (s.setPending p).rstate = s.rstate := rfl
@[simp] theorem setPending_hdr (p : List Item) : (s.setPending p).hdr = s.hdr := rfl
@[simp] theorem setPending_hcnt (p : List Item) : (s.setPending p).hcnt = s.hcnt := rfl
@[simp] theorem setPending_mbuf (p : List Item) : (s.setPending p).mbuf = s.mbuf := rfl
@[simp] theorem setPending_mlen (p : List Item) : (s.setPending p).mlen = s.mlen := rfl
@[simp] theorem setPending_rout (p : List Item) : (s.setPending p).rout = s.rout := rfl
@[simp] theorem setPending_pending (p : List Item) : (s.setPending p).pending = p := rfl
@[simp] theorem setPending_resp (p : List Item) : (s.setPending p).resp = s.resp := rfl
@[simp] theorem setPending_dlen (p : List Item) : (s.setPending p).dlen = s.dlen := rfl
@[simp] theorem setPending_elen (p : List Item) : (s.setPending p).elen = s.elen := rfl
@[simp] theorem setPending_mcnt (p : List Item) : (s.setPending p).mcnt = s.mcnt := rfl

@[simp] theorem clearReassembler_cfg (rstate : RState) : (s.clearReassembler rstate).cfg = s.cfg := rfl
@[simp] theorem clearReassembler_dbits (rstate : RState) : (s.clearReassembler rstate).dbits = s.dbits := rfl
@[simp] theorem clearReassembler_dcur (rstate : RState) : (s.clearReassembler rstate).dcur = s.dcur := rfl
@[simp] theorem clearReassembler_ebits (rstate : RState) : (s.clearReassembler rstate).ebits = s.ebits := rfl
@[simp] theorem clearReassembler_rstate (rstate : RState) : (s.clearReassembler rstate).rstate = rstate := rfl
@[simp] theorem clearReassembler_hdr (rstate : RState) : (s.clearReassembler rstate).hdr = s.hdr := rfl
@[simp] theorem clearReassembler_hcnt (rstate : RState) : (s.clearReassembler rstate).hcnt = 0 := rfl
@[simp] theorem clearReassembler_mbuf (rstate : RState) : (s.clearReassembler rstate).mbuf = [] := rfl
@[simp] theorem clearReassembler_mlen (rstate : RState) : (s.clearReassembler rstate).mlen = 0 := rfl
@[simp] theorem clearReassembler_rout (rstate : RState) : (s.clearReassembler rstate).rout = s.rout := rfl
@[simp] theorem clearReassembler_pending (rstate : RState) : (s.clearReassembler rstate).pending = s.pending := rfl
@[simp] theorem clearReassembler_resp (rstate : RState) : (s.clearReassembler rstate).resp = s.resp := rfl
@[simp] theorem clearReassembler_dlen (rstate : RState) : (s.clearReassembler rstate).dlen = s.dlen := rfl
@[simp] theorem clearReassembler_elen (rstate : RState) : (s.clearReassembler rstate).elen = s.elen := rfl
@[simp] theorem clearReassembler_mcnt (rstate : RState) : (s.clearReassembler rstate).mcnt = 0 := rfl

end Sys2Proof.Machine.State
end

