-- ==== Sys2Proof/Laws/Ops.lean ====
section
/-! SUPPORT. For each shared operation, everything it can do, said once; and the canonical form of the buffers, kept by
each operation that touches one. -/

namespace Sys2Proof.Machine

/-! ## Operations in progress -/

@[simp] theorem Ret.andThen_ok {α β : Type} (a : α) (s : State) (f : α → State → Ret β) :
    (Ret.ok a s).andThen f = f a s := rfl

@[simp] theorem Ret.andThen_raised {α β : Type} (st : Status) (info : Nat) (s : State) (f : α → State → Ret β) :
    (Ret.raised st info s).andThen f = .raised st info s := rfl

@[simp] theorem Ret.respond_ok (r : Results) (s : State) :
    (Ret.ok r s).respond = .next (s.setResp ⟨.ok, 0, r⟩) := rfl

@[simp] theorem Ret.respond_raised (st : Status) (info : Nat) (s : State) :
    (Ret.raised st info s : Ret Results).respond = .next (s.setResp ⟨st, info, .absent⟩) := rfl

/-- Whatever an operation does, it ends with a next state. -/
theorem Ret.respond_next (r : Ret Results) : ∃ t, r.respond = .next t := by
  cases r <;> exact ⟨_, rfl⟩

/-- A part followed by another returns only if both do. -/
theorem Ret.andThen_eq_ok {α β : Type} {r : Ret α} {f : α → State → Ret β} {b : β} {t : State}
    (h : r.andThen f = .ok b t) : ∃ a u, r = .ok a u ∧ f a u = .ok b t := by
  cases r with
  | ok a u => exact ⟨a, u, rfl, h⟩
  | raised st info u => cases h

/-- A part followed by another raises what the first of them raises. -/
theorem Ret.andThen_eq_raised {α β : Type} {r : Ret α} {f : α → State → Ret β} {st : Status} {info : Nat} {t : State}
    (h : r.andThen f = .raised st info t) :
    r = .raised st info t ∨ ∃ a u, r = .ok a u ∧ f a u = .raised st info t := by
  cases r with
  | ok a u => exact .inr ⟨a, u, rfl, h⟩
  | raised st' info' u =>
    simp only [Ret.andThen_raised, Ret.raised.injEq] at h
    obtain ⟨rfl, rfl, rfl⟩ := h
    exact .inl rfl

/-! ## Decode side -/

theorem requireBits_of_le {need : Nat} {s : State} (h : s.dcur + need ≤ s.dlen) : requireBits need s = .ok () s := by
  simp [requireBits, Nat.not_lt.mpr h]

theorem requireBits_of_lt {need : Nat} {s : State} (h : s.dlen < s.dcur + need) :
    requireBits need s = .raised .truncatedInput (s.dcur + need - s.dlen) s := by
  simp [requireBits, h]

/-- All a field read can do when the bits are there (R150). -/
theorem readField_of_le {w : Nat} {s : State} (h : s.dcur + w ≤ s.dlen) :
    readField w s = .ok (memRead s.dbits s.dcur w) (s.setDcur (s.dcur + w)) := by
  simp [readField, requireBits_of_le h]

/-- All a field read can do when they are not (R151). -/
theorem readField_of_lt {w : Nat} {s : State} (h : s.dlen < s.dcur + w) :
    readField w s = .raised .truncatedInput (s.dcur + w - s.dlen) s := by
  simp [readField, requireBits_of_lt h]

theorem readWhole_of_le {need : Nat} {out : List Bool → Nat → Results} {s : State} (h : s.dcur + need ≤ s.dlen) :
    readWhole need out s = .ok (out s.dbits s.dcur) (s.setDcur (s.dcur + need)) := by
  simp [readWhole, requireBits_of_le h]

theorem readWhole_of_lt {need : Nat} {out : List Bool → Nat → Results} {s : State} (h : s.dlen < s.dcur + need) :
    readWhole need out s = .raised .truncatedInput (s.dcur + need - s.dlen) s := by
  simp [readWhole, requireBits_of_lt h]

/-- All an opaque read can do: one of its three failures, with nothing changed, or the bytes (R197). -/
theorem readOpaque_cases (endOff : Nat) (s : State) :
    (endOff < s.dcur ∧ readOpaque endOff s = .raised .badOperand endOff s) ∨
    (s.dcur ≤ endOff ∧ s.dlen < endOff ∧ readOpaque endOff s = .raised .truncatedInput (endOff - s.dlen) s) ∨
    (s.dcur ≤ endOff ∧ endOff ≤ s.dlen ∧ (endOff - s.dcur) % 8 ≠ 0 ∧
      readOpaque endOff s = .raised .notByteAligned ((endOff - s.dcur) % 8) s) ∨
    (s.dcur ≤ endOff ∧ endOff ≤ s.dlen ∧ (endOff - s.dcur) % 8 = 0 ∧
      readOpaque endOff s = .ok (readBytes s.dbits s.dcur ((endOff - s.dcur) / 8)) (s.setDcur endOff)) := by
  unfold readOpaque
  by_cases h1 : endOff < s.dcur
  · simp [h1]
  · by_cases h2 : s.dlen < endOff
    · simp [h1, h2]; omega
    · by_cases h3 : (endOff - s.dcur) % 8 = 0
      · simp [h1, h2, h3]; omega
      · simp [h1, h2, h3]; omega

/-- All a check of the cursor can do (R234, R239). -/
theorem requireAt_cases (endOff : Nat) (st : Status) (s : State) :
    (s.dcur = endOff ∧ requireAt endOff st s = .ok .absent s) ∨
    (s.dcur ≠ endOff ∧ requireAt endOff st s = .raised st (distance endOff s.dcur) s) := by
  unfold requireAt
  by_cases h : s.dcur = endOff <;> simp [h]

/-! ## Encode side -/

/-- All an append can do: the bits at the end, or `Overflow` with nothing changed (R170, R182, R210). -/
theorem appendBits_cases (bits : List Bool) (s : State) :
    (exceeds s.cfg.ecapBits (s.elen + bits.length) = false ∧
      appendBits bits s = .ok .absent (s.setEbits (s.ebits ++ bits))) ∨
    (exceeds s.cfg.ecapBits (s.elen + bits.length) = true ∧
      appendBits bits s = .raised .overflow (s.elen + bits.length) s) := by
  unfold appendBits
  cases h : exceeds s.cfg.ecapBits (s.elen + bits.length) <;> simp

/-- All a header operation can do (R261, R267). -/
theorem appendHeader_cases (bits : List Bool) (s : State) :
    (exceeds s.cfg.ecapBits (s.elen + bits.length) = false ∧
      appendHeader bits s = .ok (.start s.elen) (s.setEbits (s.ebits ++ bits))) ∨
    (exceeds s.cfg.ecapBits (s.elen + bits.length) = true ∧
      appendHeader bits s = .raised .overflow (s.elen + bits.length) s) := by
  rcases appendBits_cases bits s with ⟨h, e⟩ | ⟨h, e⟩ <;> simp [appendHeader, h, e]

/-- All a patch can do: one of its three failures, with nothing changed, or the new field (R263, R264, R269, R270). -/
theorem patchLength_cases (hdrBits w greatest start : Nat) (s : State) :
    (s.elen < start + hdrBits ∧ patchLength hdrBits w greatest start s = .raised .badOperand start s) ∨
    (start + hdrBits ≤ s.elen ∧ (s.elen - start) % 8 ≠ 0 ∧
      patchLength hdrBits w greatest start s = .raised .notByteAligned ((s.elen - start) % 8) s) ∨
    (start + hdrBits ≤ s.elen ∧ (s.elen - start) % 8 = 0 ∧ greatest < (s.elen - start) / 8 ∧
      patchLength hdrBits w greatest start s = .raised .overflow ((s.elen - start) / 8) s) ∨
    (start + hdrBits ≤ s.elen ∧ (s.elen - start) % 8 = 0 ∧ (s.elen - start) / 8 ≤ greatest ∧
      patchLength hdrBits w greatest start s =
        .ok (.length ((s.elen - start) / 8))
          (s.setEbits (memWrite s.ebits (start + 16) w ((s.elen - start) / 8)))) := by
  unfold patchLength
  by_cases h1 : s.elen < start + hdrBits
  · simp [h1]
  · by_cases h2 : (s.elen - start) % 8 = 0
    · by_cases h3 : greatest < (s.elen - start) / 8
      · simp [h1, h2, h3]; omega
      · simp [h1, h2, h3]; omega
    · simp [h1, h2]; omega

/-- The operands all fit their fields, or the first that does not is named. -/
theorem firstMisfit_eq_none {l : List (Nat × Nat)} : firstMisfit l = none ↔ ∀ p ∈ l, p.1 ≤ p.2 := by
  induction l with
  | nil => simp [firstMisfit]
  | cons p l ih =>
    obtain ⟨v, g⟩ := p
    by_cases h : g < v
    · simp [firstMisfit, h]
    · simp only [firstMisfit, h, if_false, ih, List.forall_mem_cons]
      exact ⟨fun q => ⟨Nat.le_of_not_lt h, q⟩, fun q => q.2⟩

theorem firstMisfit_mem {l : List (Nat × Nat)} {v : Nat} (h : firstMisfit l = some v) :
    ∃ g, (v, g) ∈ l ∧ g < v := by
  induction l with
  | nil => simp [firstMisfit] at h
  | cons p l ih =>
    obtain ⟨u, g⟩ := p
    by_cases hg : g < u
    · simp only [firstMisfit, hg, if_true, Option.some.injEq] at h
      subst h
      exact ⟨g, by simp, hg⟩
    · simp only [firstMisfit, hg, if_false] at h
      obtain ⟨k, hk, hv⟩ := ih h
      exact ⟨k, List.mem_cons_of_mem _ hk, hv⟩

@[simp] theorem length_msghdrBits (r v t l i : Nat) : (msghdrBits r v t l i).length = 80 := by
  simp [msghdrBits]

@[simp] theorem length_tvhdrBits (t : Nat) : (tvhdrBits t).length = 8 := by
  simp [tvhdrBits]

@[simp] theorem length_tlvhdrBits (r t l : Nat) : (tlvhdrBits r t l).length = 32 := by
  simp [tlvhdrBits]

@[simp] theorem length_customBits (v w st : Nat) (tail : List Byte) :
    (customBits v w st tail).length = 32 + w + 8 * tail.length := by
  simp [customBits]; omega

/-! ## Reassembler -/

/-- All a byte can do: it is discarded, it is collected, it completes a message, it opens a body, or it completes a
header that is refused (R290, R292). -/
theorem feedByte_cases (b : Byte) (s : State) :
    (s.rstate = .closed ∧ feedByte b s = ⟨.closed, 1, [], s⟩) ∨
    (s.rstate = .awaitingHeader ∧ s.hcnt + 1 ≠ 10 ∧
      feedByte b s = ⟨.ok, 0, [], s.setHdr (s.hdr.setIfInBounds s.hcnt b) (s.hcnt + 1)⟩) ∨
    (s.rstate = .awaitingHeader ∧ s.hcnt + 1 = 10 ∧
      feedByte b s = finishHeader (s.hdr.setIfInBounds s.hcnt b) s) ∨
    (s.rstate = .awaitingBody ∧ s.mcnt + 1 = s.mlen ∧
      feedByte b s = ⟨.ok, 0, [.messageComplete (s.mbuf ++ [b])],
        (s.emit (.messageComplete (s.mbuf ++ [b]))).setBody .awaitingHeader [] 0⟩) ∨
    (s.rstate = .awaitingBody ∧ s.mcnt + 1 ≠ s.mlen ∧
      feedByte b s = ⟨.ok, 0, [], s.setBody .awaitingBody (s.mbuf ++ [b]) s.mlen⟩) := by
  unfold feedByte
  cases s.rstate with
  | closed => simp
  | awaitingHeader => by_cases h : s.hcnt + 1 = 10 <;> simp [feedHeader, h]
  | awaitingBody => by_cases h : s.mcnt + 1 = s.mlen <;> simp [feedBody, h]

/-- All the tenth header byte can do (R297, R298, R303). -/
theorem finishHeader_cases (hdr : Vector Byte 10) (s : State) :
    (∃ c, validate s.cfg (parseHeader hdr.toList) = some c ∧
      finishHeader hdr s = ⟨.framingFault, c.number, [.framingFault c],
        ((s.setHdr hdr 0).setBody .closed s.mbuf s.mlen).emit (.framingFault c)⟩) ∨
    (validate s.cfg (parseHeader hdr.toList) = none ∧ (parseHeader hdr.toList).length = 10 ∧
      finishHeader hdr s = ⟨.ok, 0, [.messageComplete hdr.toList],
        (s.setHdr hdr 0).emit (.messageComplete hdr.toList)⟩) ∨
    (validate s.cfg (parseHeader hdr.toList) = none ∧ (parseHeader hdr.toList).length ≠ 10 ∧
      finishHeader hdr s = ⟨.ok, 0, [],
        (s.setHdr hdr 0).setBody .awaitingBody hdr.toList (parseHeader hdr.toList).length⟩) := by
  unfold finishHeader
  cases hv : validate s.cfg (parseHeader hdr.toList) with
  | some c => exact .inl ⟨c, rfl, rfl⟩
  | none => by_cases hl : (parseHeader hdr.toList).length = 10 <;> simp [hl]

/-- An intake changes only the reassembler's variables and `rout` (R31). -/
theorem feedByte_frame (b : Byte) (s : State) :
    (feedByte b s).state = { s with
      rstate := (feedByte b s).state.rstate, hdr := (feedByte b s).state.hdr, hcnt := (feedByte b s).state.hcnt,
      mbuf := (feedByte b s).state.mbuf, mlen := (feedByte b s).state.mlen, rout := (feedByte b s).state.rout } := by
  rcases feedByte_cases b s with ⟨_, e⟩ | ⟨_, _, e⟩ | ⟨_, _, e⟩ | ⟨_, _, e⟩ | ⟨_, _, e⟩
  · rw [e]
  · rw [e]; rfl
  · rw [e]
    rcases finishHeader_cases (s.hdr.setIfInBounds s.hcnt b) s with ⟨c, _, e⟩ | ⟨_, _, e⟩ | ⟨_, _, e⟩ <;> rw [e] <;> rfl
  · rw [e]; rfl
  · rw [e]; rfl

/-- What an intake puts out it also returns (R29, R292). -/
theorem feedByte_rout (b : Byte) (s : State) : (feedByte b s).state.rout = s.rout ++ (feedByte b s).events := by
  rcases feedByte_cases b s with ⟨_, e⟩ | ⟨_, _, e⟩ | ⟨_, _, e⟩ | ⟨_, _, e⟩ | ⟨_, _, e⟩
  · simp [e]
  · simp [e]
  · rw [e]
    rcases finishHeader_cases (s.hdr.setIfInBounds s.hcnt b) s with ⟨c, _, e⟩ | ⟨_, _, e⟩ | ⟨_, _, e⟩ <;> simp [e]
  · simp [e]
  · simp [e]

theorem feedAll_nil (s : State) : feedAll [] s = ⟨.ok, 0, [], s⟩ := rfl

/-- The loop goes on with the next byte unless this one ended in a framing fault (R299). -/
theorem feedAll_cons (b : Byte) (rest : List Byte) (s : State) :
    ((feedByte b s).status = .framingFault ∧ feedAll (b :: rest) s = feedByte b s) ∨
    ((feedByte b s).status ≠ .framingFault ∧
      feedAll (b :: rest) s =
        { feedAll rest (feedByte b s).state with
          events := (feedByte b s).events ++ (feedAll rest (feedByte b s).state).events }) := by
  by_cases h : (feedByte b s).status = .framingFault <;> simp [feedAll, h]

/-! ## Canonical form of the buffers -/

theorem Memory.wf_iff (s : State) :
    Memory.wf s = true ↔ s.dlen % 8 = 0 ∧ s.dcur ≤ s.dlen ∧ exceeds s.cfg.dcapBits s.dlen = false ∧
      exceeds s.cfg.ecapBits s.elen = false := by
  simp [Memory.wf, and_assoc]

/-- The reset state's buffers are in canonical form. -/
theorem reset_memory_wf : Memory.wf State.reset = true := by decide

/-- Moving the cursor inside the buffer keeps the form. -/
theorem setDcur_memory_wf {s : State} (h : Memory.wf s = true) {cur : Nat} (hc : cur ≤ s.dlen) :
    Memory.wf (s.setDcur cur) = true := by
  rw [Memory.wf_iff] at *
  simpa using ⟨h.1, hc, h.2.2⟩

/-- Loading whole bytes that fit keeps the form. -/
theorem setDbuf_memory_wf {s : State} (h : Memory.wf s = true) {bytes : List Byte}
    (hc : exceeds s.cfg.dcapBits (8 * bytes.length) = false) :
    Memory.wf (s.setDbuf (bytesToBits bytes) 0) = true := by
  rw [Memory.wf_iff] at *
  simpa [hc] using h.2.2.2

/-- Encode-buffer contents that fit keep the form. -/
theorem setEbits_memory_wf {s : State} (h : Memory.wf s = true) {bits : List Bool}
    (hc : exceeds s.cfg.ecapBits bits.length = false) : Memory.wf (s.setEbits bits) = true := by
  rw [Memory.wf_iff] at *
  simpa [hc] using ⟨h.1, h.2.1, h.2.2.1⟩

/-- A field read keeps the form. -/
theorem readField_memory_wf {w v : Nat} {s t : State} (h : Memory.wf s = true) (e : readField w s = .ok v t) :
    Memory.wf t = true := by
  by_cases hw : s.dcur + w ≤ s.dlen
  · rw [readField_of_le hw, Ret.ok.injEq] at e
    rw [← e.2]
    exact setDcur_memory_wf h hw
  · rw [readField_of_lt (by omega)] at e; cases e

/-- An array read keeps the form. -/
theorem readWhole_memory_wf {need : Nat} {out : List Bool → Nat → Results} {r : Results} {s t : State}
    (h : Memory.wf s = true) (e : readWhole need out s = .ok r t) : Memory.wf t = true := by
  by_cases hw : s.dcur + need ≤ s.dlen
  · rw [readWhole_of_le hw, Ret.ok.injEq] at e
    rw [← e.2]
    exact setDcur_memory_wf h hw
  · rw [readWhole_of_lt (by omega)] at e; cases e

/-- An opaque read keeps the form. -/
theorem readOpaque_memory_wf {endOff : Nat} {l : List Byte} {s t : State}
    (h : Memory.wf s = true) (e : readOpaque endOff s = .ok l t) : Memory.wf t = true := by
  rcases readOpaque_cases endOff s with ⟨_, q⟩ | ⟨_, _, q⟩ | ⟨_, _, _, q⟩ | ⟨_, hl, _, q⟩ <;> rw [q] at e
  · cases e
  · cases e
  · cases e
  · rw [Ret.ok.injEq] at e
    rw [← e.2]
    exact setDcur_memory_wf h hl

/-- An append keeps the form. -/
theorem appendBits_memory_wf {bits : List Bool} {r : Results} {s t : State} (h : Memory.wf s = true)
    (e : appendBits bits s = .ok r t) : Memory.wf t = true := by
  rcases appendBits_cases bits s with ⟨hc, q⟩ | ⟨_, q⟩ <;> rw [q] at e
  · rw [Ret.ok.injEq] at e
    rw [← e.2]
    exact setEbits_memory_wf h (by simpa [State.elen] using hc)
  · cases e

/-- A patch keeps the form, for a field that lies inside its header. -/
theorem patchLength_memory_wf {hdrBits w greatest start : Nat} {r : Results} {s t : State} (hw : 16 + w ≤ hdrBits)
    (h : Memory.wf s = true) (e : patchLength hdrBits w greatest start s = .ok r t) : Memory.wf t = true := by
  rcases patchLength_cases hdrBits w greatest start s with ⟨_, q⟩ | ⟨_, _, q⟩ | ⟨_, _, _, q⟩ | ⟨hl, _, _, q⟩ <;>
    rw [q] at e
  · cases e
  · cases e
  · cases e
  · rw [Ret.ok.injEq] at e
    rw [← e.2]
    refine setEbits_memory_wf h ?_
    rw [length_memWrite _ _ _ _ (by simp only [State.elen] at hl; omega)]
    exact ((Memory.wf_iff s).mp h).2.2.2

end Sys2Proof.Machine
end

