-- ==== Sys2Proof/Laws/PerInstr.lean ====
section
/-! SUPPORT. Facts about every instruction as syntax, one lemma for each constructor. -/

namespace Sys2Proof

/-- What an item must be to be one the host can present: a command's code is one of the families 0x0 to 0x7 of R101, and
the number of a wire layout fits its bits (R90 to R94). -/
def Item.presentable : Item → Prop
  | .command op _ => op.toNat < 128
  | .wire nbits w _ => w < 2 ^ nbits

/-- The item that stands for an instruction is one the host can present. -/
def Laws.EncodesPresentable.Statement (i : Instr) : Prop :=
  (encode i).presentable

namespace Laws.EncodesPresentable

theorem reset : Statement .reset :=
  show BitVec.toNat (0x00#8) < 128 from by decide

theorem dLoad (bytes : List Byte) : Statement (.dLoad bytes) :=
  show BitVec.toNat (0x01#8) < 128 from by decide

theorem dSeek (off : Nat) : Statement (.dSeek off) :=
  show BitVec.toNat (0x02#8) < 128 from by decide

theorem dTell : Statement .dTell :=
  show BitVec.toNat (0x03#8) < 128 from by decide

theorem eNew : Statement .eNew :=
  show BitVec.toNat (0x04#8) < 128 from by decide

theorem eTell : Statement .eTell :=
  show BitVec.toNat (0x05#8) < 128 from by decide

theorem eRead : Statement .eRead :=
  show BitVec.toNat (0x06#8) < 128 from by decide

theorem dBool : Statement .dBool :=
  show BitVec.toNat (0x10#8) < 128 from by decide

theorem dU8 : Statement .dU8 :=
  show BitVec.toNat (0x11#8) < 128 from by decide

theorem dU16 : Statement .dU16 :=
  show BitVec.toNat (0x12#8) < 128 from by decide

theorem dS16 : Statement .dS16 :=
  show BitVec.toNat (0x13#8) < 128 from by decide

theorem dU32 : Statement .dU32 :=
  show BitVec.toNat (0x14#8) < 128 from by decide

theorem dS32 : Statement .dS32 :=
  show BitVec.toNat (0x15#8) < 128 from by decide

theorem dU64 : Statement .dU64 :=
  show BitVec.toNat (0x16#8) < 128 from by decide

theorem dS64 : Statement .dS64 :=
  show BitVec.toNat (0x17#8) < 128 from by decide

theorem dBits (w : Nat) : Statement (.dBits w) :=
  show BitVec.toNat (0x18#8) < 128 from by decide

theorem eBool (val : Port) : Statement (.eBool val) :=
  show BitVec.toNat (0x20#8) < 128 from by decide

theorem eU8 (val : Port) : Statement (.eU8 val) :=
  show BitVec.toNat (0x21#8) < 128 from by decide

theorem eU16 (val : Port) : Statement (.eU16 val) :=
  show BitVec.toNat (0x22#8) < 128 from by decide

theorem eS16 (val : Port) : Statement (.eS16 val) :=
  show BitVec.toNat (0x23#8) < 128 from by decide

theorem eU32 (val : Port) : Statement (.eU32 val) :=
  show BitVec.toNat (0x24#8) < 128 from by decide

theorem eS32 (val : Port) : Statement (.eS32 val) :=
  show BitVec.toNat (0x25#8) < 128 from by decide

theorem eU64 (val : Port) : Statement (.eU64 val) :=
  show BitVec.toNat (0x26#8) < 128 from by decide

theorem eS64 (val : Port) : Statement (.eS64 val) :=
  show BitVec.toNat (0x27#8) < 128 from by decide

theorem eBits (w : Nat) (val : Port) : Statement (.eBits w val) :=
  show BitVec.toNat (0x28#8) < 128 from by decide

theorem dArr8 (n : Nat) : Statement (.dArr8 n) :=
  show BitVec.toNat (0x30#8) < 128 from by decide

theorem dArr16 (n : Nat) : Statement (.dArr16 n) :=
  show BitVec.toNat (0x31#8) < 128 from by decide

theorem dStr (n : Nat) : Statement (.dStr n) :=
  show BitVec.toNat (0x32#8) < 128 from by decide

theorem dBitv (n : Nat) : Statement (.dBitv n) :=
  show BitVec.toNat (0x33#8) < 128 from by decide

theorem dOpaque (endOff : Nat) : Statement (.dOpaque endOff) :=
  show BitVec.toNat (0x34#8) < 128 from by decide

theorem eArr8 (bytes : List Byte) : Statement (.eArr8 bytes) :=
  show BitVec.toNat (0x40#8) < 128 from by decide

theorem eArr16 (words : List Word) : Statement (.eArr16 words) :=
  show BitVec.toNat (0x41#8) < 128 from by decide

theorem eStr (bytes : List Byte) : Statement (.eStr bytes) :=
  show BitVec.toNat (0x42#8) < 128 from by decide

theorem eBitv (bits : List Bool) : Statement (.eBitv bits) :=
  show BitVec.toNat (0x43#8) < 128 from by decide

theorem dMsghdr (exp : Nat) : Statement (.dMsghdr exp) :=
  show BitVec.toNat (0x50#8) < 128 from by decide

theorem dMsgend (endOff : Nat) : Statement (.dMsgend endOff) :=
  show BitVec.toNat (0x51#8) < 128 from by decide

theorem dParhdr : Statement .dParhdr :=
  show BitVec.toNat (0x52#8) < 128 from by decide

theorem dParend (endOff : Nat) : Statement (.dParend endOff) :=
  show BitVec.toNat (0x53#8) < 128 from by decide

theorem dCustmsg (endOff : Nat) : Statement (.dCustmsg endOff) :=
  show BitVec.toNat (0x54#8) < 128 from by decide

theorem dCustpar (endOff : Nat) : Statement (.dCustpar endOff) :=
  show BitVec.toNat (0x55#8) < 128 from by decide

theorem eMsghdr (ver type id : Nat) : Statement (.eMsghdr ver type id) :=
  show BitVec.toNat (0x60#8) < 128 from by decide

theorem eMsglen (start : Nat) : Statement (.eMsglen start) :=
  show BitVec.toNat (0x61#8) < 128 from by decide

theorem eTvhdr (type : Nat) : Statement (.eTvhdr type) :=
  show BitVec.toNat (0x62#8) < 128 from by decide

theorem eTlvhdr (type : Nat) : Statement (.eTlvhdr type) :=
  show BitVec.toNat (0x63#8) < 128 from by decide

theorem eTlvlen (start : Nat) : Statement (.eTlvlen start) :=
  show BitVec.toNat (0x64#8) < 128 from by decide

theorem eCustmsg (vendor subtype : Nat) (bytes : List Byte) : Statement (.eCustmsg vendor subtype bytes) :=
  show BitVec.toNat (0x65#8) < 128 from by decide

theorem eCustpar (vendor subtype : Nat) (bytes : List Byte) : Statement (.eCustpar vendor subtype bytes) :=
  show BitVec.toNat (0x66#8) < 128 from by decide

theorem rOpen : Statement .rOpen :=
  show BitVec.toNat (0x70#8) < 128 from by decide

theorem rFeed (b : Byte) : Statement (.rFeed b) :=
  show BitVec.toNat (0x71#8) < 128 from by decide

theorem rFeedn (bytes : List Byte) : Statement (.rFeedn bytes) :=
  show BitVec.toNat (0x72#8) < 128 from by decide

theorem rClose : Statement .rClose :=
  show BitVec.toNat (0x73#8) < 128 from by decide

theorem rStat : Statement .rStat :=
  show BitVec.toNat (0x74#8) < 128 from by decide

theorem msghdr (reserved ver : BitVec 3) (type : BitVec 10) (length id : BitVec 32) : Statement (.msghdr reserved ver type length id) := by
  show _ < 2 ^ 80
  have hreserved := reserved.isLt
  have hver := ver.isLt
  have htype := type.isLt
  have hlength := length.isLt
  have hid := id.isLt
  omega

theorem tvhdr (type : BitVec 7) : Statement (.tvhdr type) := by
  show _ < 2 ^ 8
  have htype := type.isLt
  omega

theorem tlvhdr (reserved : BitVec 5) (type : BitVec 10) (length : BitVec 16) : Statement (.tlvhdr reserved type length) := by
  show _ < 2 ^ 32
  have hreserved := reserved.isLt
  have htype := type.isLt
  have hlength := length.isLt
  omega

theorem custmsgBody (vendor : BitVec 32) (subtype : BitVec 8) (tail : List Byte) : Statement (.custmsgBody vendor subtype tail) := by
  show _ < 2 ^ 40
  have hvendor := vendor.isLt
  have hsubtype := subtype.isLt
  omega

theorem custparBody (vendor subtype : BitVec 32) (tail : List Byte) : Statement (.custparBody vendor subtype tail) := by
  show _ < 2 ^ 64
  have hvendor := vendor.isLt
  have hsubtype := subtype.isLt
  omega

end Laws.EncodesPresentable

end Sys2Proof
end

