-- ==== Sys2Proof/Laws/Safety.lean ====
section
/-! SUPPORT. The terms of Safety.lean beside the tests the model computes. -/

namespace Sys2Proof.Machine

/-- The capacity test of the model says exactly whether a length fits (R11). -/
theorem exceeds_eq_false_iff (cap : Option Nat) (n : Nat) : exceeds cap n = false ↔ Fits cap n := by
  cases cap <;> simp [exceeds, Fits]

theorem exceeds_eq_true_iff (cap : Option Nat) (n : Nat) : exceeds cap n = true ↔ ¬Fits cap n := by
  rw [← exceeds_eq_false_iff, Bool.not_eq_false]

/-- A shorter length fits where a longer one does. -/
theorem Fits.mono {cap : Option Nat} {n m : Nat} (h : Fits cap n) (hm : m ≤ n) : Fits cap m :=
  fun c hc => hm.trans (h c hc)

end Sys2Proof.Machine
end

