-- ==== Sys2Proof/Tests/Slice0.lean ====
section
/-! SUPPORT. Tests. Part 1: every check of WellFormed refuses an ill-formed term. Part 2: every code of
30_encoding.md R101 and every layout of R90 to R94, written out, decodes to its instruction. Part 3: single operations
on small states; the expected results are those of 95_test_vectors.md or of the example in the operation's rule. Part 4: for
each statement of Certificates/Slice0/Obligations.lean that has hypotheses, values that meet them, clause by clause. -/

set_option maxRecDepth 20000
-- One test after another: together they would ask for more threads than check.sh has memory for.
set_option Elab.async false

namespace Sys2Proof.Tests

open Sys2Proof.Machine

/-! ## States to test on -/

/-- The test configuration of 95_test_vectors.md: `TV_LEN(1) = 16`, `MAX_MSG_LEN = 65536`, infinite capacities. -/
def testCfg : Config where
  supportedVersion := 1
  maxMsgLen := 65536
  tvLen := (Vector.replicate 128 none).set 1 (some 16)
  dcapBits := none
  ecapBits := none

/-- The reset state with the test configuration. -/
def base : State := { State.reset with cfg := testCfg }

/-- Bytes in `DBUF` and a cursor. -/
def loaded (bytes : List Byte) (cur : Nat) : State := { base with dbits := bytesToBits bytes, dcur := cur }

/-- Bits in `EBUF`. -/
def encoded (bits : List Bool) : State := { base with ebits := bits }

/-- Finite capacities. -/
def capped (dcap ecap : Option Nat) (s : State) : State :=
  { s with cfg := { s.cfg with dcapBits := dcap, ecapBits := ecap } }

/-- The header of a 10-byte message of type 20 with id 42 (S1), and of a 17-byte message. -/
def header10 : List Byte := [0x04, 0x14, 0x00, 0x00, 0x00, 0x0A, 0x00, 0x00, 0x00, 0x2A]
def header12 : List Byte := [0x04, 0x14, 0x00, 0x00, 0x00, 0x0C, 0x00, 0x00, 0x00, 0x2A]

/-- Nine header bytes received; ten or eleven of twelve bytes received; closed. -/
def nineBytes (hdr : Vector Byte 10) : State := { base with hdr := hdr, hcnt := 9 }
def inBody (mbuf : List Byte) : State := { base with rstate := .awaitingBody, mbuf := mbuf, mlen := 12 }
def closedState : State := { base with rstate := .closed }

/-- The response to one operation. -/
def respOf (i : Instr) (s : State) : Option Response :=
  match exec i s with
  | .next t => t.resp
  | .fault _ => none
  | .refused _ => none

/-- The cursor after one operation. -/
def curAfter (i : Instr) (s : State) : Option Nat :=
  match exec i s with
  | .next t => some t.dcur
  | .fault _ => none
  | .refused _ => none

/-- The contents of `EBUF` after one operation. -/
def ebitsAfter (i : Instr) (s : State) : Option (List Bool) :=
  match exec i s with
  | .next t => some t.ebits
  | .fault _ => none
  | .refused _ => none

/-- The bits of bytes, as `E.READ` would show them. -/
def bitsOf (bytes : List Byte) : Option (List Bool) := some (bytesToBits bytes)

/-! ## Part 1. Ill-formed terms -/

theorem test_wellFormed_refuses_decode_width :
    Instr.wellFormed (.dBits 0) = false ∧ Instr.wellFormed (.dBits 65) = false ∧
    Instr.wellFormed (.dBits 1) = true ∧ Instr.wellFormed (.dBits 64) = true := by decide

theorem test_wellFormed_refuses_encode_width :
    Instr.wellFormed (.eBits 0 0) = false ∧ Instr.wellFormed (.eBits 65 0) = false ∧
    Instr.wellFormed (.eBits 64 0) = true := by decide

theorem test_wellFormed_refuses_expected_type :
    Instr.wellFormed (.dMsghdr 1024) = false ∧ Instr.wellFormed (.dMsghdr 1023) = true := by decide

theorem test_wellFormed_refuses_message_header :
    Instr.wellFormed (.eMsghdr 8 20 42) = false ∧ Instr.wellFormed (.eMsghdr 1 1024 42) = false ∧
    Instr.wellFormed (.eMsghdr 1 20 4294967296) = false ∧
    Instr.wellFormed (.eMsghdr 7 1023 4294967295) = true := by decide

theorem test_wellFormed_refuses_parameter_type :
    Instr.wellFormed (.eTvhdr 128) = false ∧ Instr.wellFormed (.eTvhdr 127) = true ∧
    Instr.wellFormed (.eTlvhdr 1024) = false ∧ Instr.wellFormed (.eTlvhdr 1023) = true := by decide

theorem test_wellFormed_refuses_custom_body :
    Instr.wellFormed (.eCustmsg 4294967296 5 []) = false ∧ Instr.wellFormed (.eCustmsg 99 256 []) = false ∧
    Instr.wellFormed (.eCustpar 4294967296 5 []) = false ∧ Instr.wellFormed (.eCustpar 99 4294967296 []) = false ∧
    Instr.wellFormed (.eCustpar 4294967295 4294967295 []) = true := by decide

/-! ## Part 2. Decoding -/

theorem test_decode_buffer_operations :
    decode (.command 0x00 {}) = .ok .reset ∧
    decode (.command 0x01 { bytes := [4, 20] }) = .ok (.dLoad [4, 20]) ∧
    decode (.command 0x02 { off := 16 }) = .ok (.dSeek 16) ∧
    decode (.command 0x03 {}) = .ok .dTell ∧ decode (.command 0x04 {}) = .ok .eNew ∧
    decode (.command 0x05 {}) = .ok .eTell ∧ decode (.command 0x06 {}) = .ok .eRead :=
  ⟨rfl, rfl, rfl, rfl, rfl, rfl, rfl⟩

theorem test_decode_scalar_decode :
    decode (.command 0x10 {}) = .ok .dBool ∧ decode (.command 0x11 {}) = .ok .dU8 ∧
    decode (.command 0x12 {}) = .ok .dU16 ∧ decode (.command 0x13 {}) = .ok .dS16 ∧
    decode (.command 0x14 {}) = .ok .dU32 ∧ decode (.command 0x15 {}) = .ok .dS32 ∧
    decode (.command 0x16 {}) = .ok .dU64 ∧ decode (.command 0x17 {}) = .ok .dS64 ∧
    decode (.command 0x18 { w := 7 }) = .ok (.dBits 7) :=
  ⟨rfl, rfl, rfl, rfl, rfl, rfl, rfl, rfl, rfl⟩

theorem test_decode_scalar_encode :
    decode (.command 0x20 { val := 1 }) = .ok (.eBool 1) ∧ decode (.command 0x21 { val := 2 }) = .ok (.eU8 2) ∧
    decode (.command 0x22 { val := 3 }) = .ok (.eU16 3) ∧ decode (.command 0x23 { val := 4 }) = .ok (.eS16 4) ∧
    decode (.command 0x24 { val := 5 }) = .ok (.eU32 5) ∧ decode (.command 0x25 { val := 6 }) = .ok (.eS32 6) ∧
    decode (.command 0x26 { val := 7 }) = .ok (.eU64 7) ∧ decode (.command 0x27 { val := 8 }) = .ok (.eS64 8) ∧
    decode (.command 0x28 { w := 7, val := 9 }) = .ok (.eBits 7 9) :=
  ⟨rfl, rfl, rfl, rfl, rfl, rfl, rfl, rfl, rfl⟩

theorem test_decode_variable_width :
    decode (.command 0x30 { n := 3 }) = .ok (.dArr8 3) ∧ decode (.command 0x31 { n := 3 }) = .ok (.dArr16 3) ∧
    decode (.command 0x32 { n := 3 }) = .ok (.dStr 3) ∧ decode (.command 0x33 { n := 3 }) = .ok (.dBitv 3) ∧
    decode (.command 0x34 { endOff := 32 }) = .ok (.dOpaque 32) ∧
    decode (.command 0x40 { bytes := [1] }) = .ok (.eArr8 [1]) ∧
    decode (.command 0x41 { words := [258] }) = .ok (.eArr16 [258]) ∧
    decode (.command 0x42 { bytes := [2] }) = .ok (.eStr [2]) ∧
    decode (.command 0x43 { bits := [true] }) = .ok (.eBitv [true]) :=
  ⟨rfl, rfl, rfl, rfl, rfl, rfl, rfl, rfl, rfl⟩

theorem test_decode_envelope :
    decode (.command 0x50 { exp := 20 }) = .ok (.dMsghdr 20) ∧
    decode (.command 0x51 { endOff := 80 }) = .ok (.dMsgend 80) ∧ decode (.command 0x52 {}) = .ok .dParhdr ∧
    decode (.command 0x53 { endOff := 48 }) = .ok (.dParend 48) ∧
    decode (.command 0x54 { endOff := 136 }) = .ok (.dCustmsg 136) ∧
    decode (.command 0x55 { endOff := 104 }) = .ok (.dCustpar 104) ∧
    decode (.command 0x60 { ver := 1, type := 20, id := 42 }) = .ok (.eMsghdr 1 20 42) ∧
    decode (.command 0x61 { start := 8 }) = .ok (.eMsglen 8) ∧
    decode (.command 0x62 { type := 1 }) = .ok (.eTvhdr 1) ∧
    decode (.command 0x63 { type := 300 }) = .ok (.eTlvhdr 300) ∧
    decode (.command 0x64 { start := 8 }) = .ok (.eTlvlen 8) ∧
    decode (.command 0x65 { vendor := 99, subtype := 5, bytes := [0xDE] }) = .ok (.eCustmsg 99 5 [0xDE]) ∧
    decode (.command 0x66 { vendor := 99, subtype := 5, bytes := [0xAA] }) = .ok (.eCustpar 99 5 [0xAA]) :=
  ⟨rfl, rfl, rfl, rfl, rfl, rfl, rfl, rfl, rfl, rfl, rfl, rfl, rfl⟩

theorem test_decode_reassembler :
    decode (.command 0x70 {}) = .ok .rOpen ∧ decode (.command 0x71 { b := 4 }) = .ok (.rFeed 4) ∧
    decode (.command 0x72 { bytes := [4, 20] }) = .ok (.rFeedn [4, 20]) ∧
    decode (.command 0x73 {}) = .ok .rClose ∧ decode (.command 0x74 {}) = .ok .rStat :=
  ⟨rfl, rfl, rfl, rfl, rfl⟩

/-- R103: codes that R101 does not list. -/
theorem test_decode_refuses_unassigned_codes :
    decode (.command 0x07 {}) = .error (.illegalOp 0x07) ∧ decode (.command 0x19 {}) = .error (.illegalOp 0x19) ∧
    decode (.command 0x44 {}) = .error (.illegalOp 0x44) ∧ decode (.command 0x75 {}) = .error (.illegalOp 0x75) ∧
    decode (.command 0x80 {}) = .error (.illegalOp 0x80) ∧ decode (.command 0xFF {}) = .error (.illegalOp 0xFF) :=
  ⟨rfl, rfl, rfl, rfl, rfl, rfl⟩

/-- The pattern of R90, bit by bit: `rrr vvv tttttttttt`, 32 `l`, 32 `i`, with reserved 5, version 1, type 20, length 10,
id 42. -/
theorem test_decode_message_header_bits :
    decodeTableWord 80
      0b10100100000101000000000000000000000000000000101000000000000000000000000000101010 =
      some (.msghdr 5 1 20 10 42) := by decide +kernel

/-- The patterns of R91 (`1ttttttt`, type 1) and R92 (`0rrrrrtttttttttt` and 16 `l`: reserved 3, type 300, length 6). -/
theorem test_decode_parameter_header_bits :
    decodeTableWord 8 0b10000001 = some (.tvhdr 1) ∧
    decodeTableWord 32 0b00001101001011000000000000000110 = some (.tlvhdr 3 300 6) := by decide +kernel

/-- R93 and R94: vendor 99 and subtype 5, of 8 bits and of 32 bits, with the payload after them. -/
theorem test_decode_custom_body_bits :
    decode (.wire 40 0b0000000000000000000000000110001100000101 [0xDE, 0xAD]) =
      .ok (.custmsgBody 99 5 [0xDE, 0xAD]) ∧
    decode (.wire 64 0b0000000000000000000000000110001100000000000000000000000000000101 [0xAA]) =
      .ok (.custparBody 99 5 [0xAA]) :=
  ⟨rfl, rfl⟩

/-- Bits that no layout has: a TLV word whose selector bit is 1, a width of no layout, a number too wide. -/
theorem test_decode_refuses_other_bits :
    decode (.wire 32 0x812C0006 []) = .error (.notALayout 32 0x812C0006) ∧
    decode (.wire 16 0x0414 []) = .error (.notALayout 16 0x0414) ∧
    decode (.wire 8 256 []) = .error (.notALayout 8 256) ∧ decode (.wire 8 0x7F []) = .error (.notALayout 8 0x7F) :=
  ⟨rfl, rfl, rfl, rfl⟩

/-- The words of R101 through the table, and an unassigned one. -/
theorem test_decode_table_codes :
    decodeTableWord 8 0x00 = some .reset ∧ decodeTableWord 8 0x12 = some .dU16 ∧
    decodeTableWord 8 0x64 = some (.eTlvlen 0) ∧ decodeTableWord 8 0x74 = some .rStat ∧
    decodeTableWord 8 0x75 = none := by decide +kernel

/-- A word placed on the reset state is what the next step runs. -/
theorem test_step_runs_placed_word :
    step (State.reset.withFetchWord 8 0x03) =
      .next { State.reset with resp := okResp (.cursor 0 0) } := rfl

/-! ## Part 3. Single operations -/

/-- V40: `RESET` empties everything, and re-opens a closed reassembler. -/
theorem test_reset : exec .reset { loaded [0xFF] 3 with ebits := [true], rstate := .closed } =
    .next { base with resp := okResp .absent } := rfl

/-- V40: `D.LOAD [04 14]`; and with `DCAP_BITS = 16`, three bytes are `Overflow(24)`. -/
theorem test_dLoad : exec (.dLoad [0x04, 0x14]) base =
    .next { base with
      dbits := [false, false, false, false, false, true, false, false, false, false, false, true, false, true, false, false]
      resp := okResp .absent } := rfl

theorem test_dLoad_overflow : respOf (.dLoad [0, 0, 0]) (capped (some 16) none base) = failResp .overflow 24 := by decide

/-- V40: `D.SEEK 16` is legal with 16 bits, `D.SEEK 17` is not. -/
theorem test_dSeek : curAfter (.dSeek 16) (loaded [4, 20] 0) = some 16 ∧
    respOf (.dSeek 17) (loaded [4, 20] 16) = failResp .badOperand 17 := by decide

theorem test_dTell : respOf .dTell (loaded [4, 20] 3) = okResp (.cursor 3 16) := by decide
theorem test_eNew : ebitsAfter .eNew (encoded [true]) = some [] := by decide
theorem test_eTell : respOf .eTell (encoded [true, false, true]) = okResp (.len 3) := by decide

/-- V40: `E.READ -> [A0]`, and `NotByteAligned(3)`. -/
theorem test_eRead : respOf .eRead (encoded [true, false, true, false, false, false, false, false]) =
    okResp (.bytes [0xA0]) ∧
    respOf .eRead (encoded [true, false, true]) = failResp .notByteAligned 3 := by decide

/-- V41: `[80]`, `D.BOOL -> 1`; at the end of a buffer, one bit is missing. -/
theorem test_dBool : respOf .dBool (loaded [0x80] 0) = okResp (.uval 1) ∧
    respOf .dBool (loaded [4, 20] 16) = failResp .truncatedInput 1 := by decide

/-- R153: an unaligned byte. -/
theorem test_dU8 : respOf .dU8 (loaded [0xAB, 0xCD] 4) = okResp (.uval 0xBC) := by decide

/-- V41: an unaligned 16-bit read; at cursor 9 of 24 bits one bit is missing and the cursor stays. -/
theorem test_dU16 : respOf .dU16 (loaded [0xAB, 0xCD, 0xEF] 4) = okResp (.uval 0xBCDE) := by decide
theorem test_dU16_truncated : exec .dU16 (loaded [0x12, 0x34, 0x56] 9) =
    .next { loaded [0x12, 0x34, 0x56] 9 with resp := failResp .truncatedInput 1 } := rfl

theorem test_dS16 : respOf .dS16 (loaded [0x80, 0x00] 0) = okResp (.sval (-32768)) ∧
    respOf .dS16 (loaded [0x7F, 0xFF] 0) = okResp (.sval 32767) := by decide
theorem test_dU32 : respOf .dU32 (loaded [0xFF, 0xFF, 0xFF, 0x9C] 0) = okResp (.uval 4294967196) := by decide +kernel
theorem test_dS32 : respOf .dS32 (loaded [0xFF, 0xFF, 0xFF, 0x9C] 0) = okResp (.sval (-100)) := by decide +kernel
theorem test_dU64 : respOf .dU64 (loaded [0x80, 0, 0, 0, 0, 0, 0, 0] 0) = okResp (.uval 9223372036854775808) := by
  decide +kernel
theorem test_dS64 : respOf .dS64 (loaded [0x80, 0, 0, 0, 0, 0, 0, 0] 0) = okResp (.sval (-9223372036854775808)) := by
  decide +kernel

/-- V41: the width is checked before truncation. -/
theorem test_dBits_illegal : respOf (.dBits 65) (loaded [0x12, 0x34, 0x56] 24) = failResp .badOperand 65 ∧
    respOf (.dBits 0) (loaded [0x12, 0x34, 0x56] 9) = failResp .badOperand 0 := by decide

/-- S2: 63 bits of eight `FF` bytes. -/
theorem test_dBits : respOf (.dBits 63) (loaded [0xFF, 0xFF, 0xFF, 0xFF, 0xFF, 0xFF, 0xFF, 0xFE] 0) =
    okResp (.uval 0x7FFFFFFFFFFFFFFF) := by decide +kernel

theorem test_eBool : ebitsAfter (.eBool 1) base = some [true] := by decide

/-- V42: port bits above 7 are ignored. -/
theorem test_eU8 : ebitsAfter (.eU8 0x12A) base = bitsOf [0x2A] := by decide

/-- V42: with `ECAP_BITS = 8` and 7 bits in the buffer, `E.U16` is `Overflow(23)`. -/
theorem test_eU16 : ebitsAfter (.eU16 0x0414) base = bitsOf [0x04, 0x14] := by decide
theorem test_eU16_overflow : respOf (.eU16 0) (capped none (some 8) (encoded (List.replicate 7 false))) =
    failResp .overflow 23 := by decide
theorem test_eS16 : ebitsAfter (.eS16 (-2)) base = bitsOf [0xFF, 0xFE] := by decide
theorem test_eU32 : ebitsAfter (.eU32 42) base = bitsOf [0x00, 0x00, 0x00, 0x2A] := by decide +kernel
theorem test_eS32 : ebitsAfter (.eS32 (-100)) base = bitsOf [0xFF, 0xFF, 0xFF, 0x9C] := by decide +kernel
theorem test_eU64 : ebitsAfter (.eU64 256) base = bitsOf [0, 0, 0, 0, 0, 0, 1, 0] := by decide +kernel
theorem test_eS64 : ebitsAfter (.eS64 (-2)) base = bitsOf [0xFF, 0xFF, 0xFF, 0xFF, 0xFF, 0xFF, 0xFF, 0xFE] := by
  decide +kernel

/-- R180: `E.BITS 3, 0xFD` appends `101`. -/
theorem test_eBits : ebitsAfter (.eBits 3 0xFD) base = some [true, false, true] ∧
    respOf (.eBits 0 0) base = failResp .badOperand 0 := by decide

/-- V43. -/
theorem test_dArr8 : respOf (.dArr8 3) (loaded [0xDE, 0xAD, 0xBE, 0xEF] 0) = okResp (.bytes [0xDE, 0xAD, 0xBE]) ∧
    respOf (.dArr8 2) (loaded [0xDE, 0xAD, 0xBE, 0xEF] 24) = failResp .truncatedInput 8 := by decide +kernel
theorem test_dArr16 : respOf (.dArr16 2) (loaded [0x01, 0x02, 0xFF, 0xFE] 0) = okResp (.words [0x0102, 0xFFFE]) ∧
    curAfter (.dArr16 2) (loaded [0x01, 0x02, 0xFF] 0) = some 0 := by decide +kernel
theorem test_dStr : respOf (.dStr 4) (loaded [0x4C, 0x4C, 0x52, 0x50] 0) = okResp (.bytes [0x4C, 0x4C, 0x52, 0x50]) := by
  decide +kernel
theorem test_dBitv : respOf (.dBitv 10) (loaded [0xCC, 0xFF] 0) =
    okResp (.bits [true, true, false, false, true, true, false, false, true, true]) ∧
    curAfter (.dBitv 10) (loaded [0xCC, 0xFF] 0) = some 16 := by decide
theorem test_dBitv_unaligned : curAfter (.dBitv 3) (loaded [0xFA, 0x00] 4) = some 12 ∧
    respOf (.dBitv 10) (loaded [0xCC] 0) = failResp .truncatedInput 8 := by decide
theorem test_dOpaque : respOf (.dOpaque 32) (loaded [0x63, 0x05, 0xDE, 0xAD] 16) = okResp (.bytes [0xDE, 0xAD]) := by
  decide +kernel
theorem test_dOpaque_failures :
    respOf (.dOpaque 8) (loaded [0x63, 0x05, 0xDE, 0xAD] 16) = failResp .badOperand 8 ∧
    respOf (.dOpaque 40) (loaded [0x63, 0x05, 0xDE, 0xAD] 16) = failResp .truncatedInput 8 ∧
    respOf (.dOpaque 32) (loaded [0x63, 0x05, 0xDE, 0xAD] 13) = failResp .notByteAligned 3 := by decide

/-- V44. -/
theorem test_eArr8 : ebitsAfter (.eArr8 [0xDE, 0xAD]) base = bitsOf [0xDE, 0xAD] := by decide
theorem test_eArr16 : ebitsAfter (.eArr16 [0x0102, 0xFFFE]) base = bitsOf [0x01, 0x02, 0xFF, 0xFE] := by decide +kernel
theorem test_eStr : ebitsAfter (.eStr [0x4C, 0x50]) base = bitsOf [0x4C, 0x50] := by decide
theorem test_eBitv : ebitsAfter (.eBitv [true, true, false, false, true, true, false, false, true, true]) base =
    bitsOf [0xCC, 0xC0] := by decide
theorem test_eBitv_unaligned : ebitsAfter (.eBitv [true, false, true]) (encoded [true, true, true, true]) =
    some [true, true, true, true, true, false, true, false, false, false, false, false] := by decide

/-- V45: reserved bits 111 are ignored; the type is compared before the length is read; length 9. -/
theorem test_dMsghdr : respOf (.dMsghdr 20) (loaded [0xE4, 0x14, 0, 0, 0, 0x0A, 0, 0, 0, 0x2A] 0) =
    okResp (.msgHeader 1 20 10 42 0 80) ∧
    respOf (.dMsghdr 20) (loaded [0x04, 0x14, 0, 0, 0, 0x0B, 0, 0, 0, 0x2A] 0) = failResp .truncatedMessage 8 := by
  decide +kernel
theorem test_dMsghdr_mismatch : exec (.dMsghdr 21) (loaded [0x04, 0x14, 0x00, 0x00] 0) =
    .next { loaded [0x04, 0x14, 0x00, 0x00] 0 with resp := failResp .typeMismatch 20 } := rfl
theorem test_dMsgend : respOf (.dMsgend 80) (loaded header10 80) = okResp .absent ∧
    respOf (.dMsgend 80) (loaded (header10 ++ [0]) 88) = failResp .malformedMessage 8 := by decide +kernel
theorem test_dParhdr_tlv : respOf .dParhdr (loaded [0x7D, 0x2C, 0x00, 0x06, 0x12, 0x34] 0) =
    okResp (.tlvHeader 300 6 0 48) ∧
    curAfter .dParhdr (loaded [0x01, 0x2C, 0x00] 0) = some 16 := by decide +kernel
theorem test_dParhdr_tv : respOf .dParhdr (loaded [0x81, 0x00, 0x07] 0) = okResp (.tvHeader 1 0 24) ∧
    respOf .dParhdr (loaded [0xFF] 0) = failResp .malformedParameter 127 := by decide +kernel
theorem test_dParend : respOf (.dParend 48) (loaded [0x01, 0x2C, 0x00, 0x06, 0x12, 0x34] 48) = okResp .absent ∧
    respOf (.dParend 48) (loaded [0x01, 0x2C, 0x00, 0x06, 0x12, 0x34] 40) = failResp .malformedParameter 8 := by
  decide +kernel
theorem test_dCustmsg : respOf (.dCustmsg 56) (loaded [0, 0, 0, 0x63, 0x05, 0xDE, 0xAD] 0) =
    okResp (.custom 99 5 [0xDE, 0xAD]) := by decide +kernel
theorem test_dCustpar : respOf (.dCustpar 72) (loaded [0, 0, 0, 0x63, 0, 0, 0, 0x05, 0xAA] 0) =
    okResp (.custom 99 5 [0xAA]) := by decide +kernel
theorem test_dCustpar_truncated : respOf (.dCustpar 48) (loaded [0, 0, 0, 0x63, 0, 0] 0) = failResp .truncatedInput 16 ∧
    curAfter (.dCustpar 48) (loaded [0, 0, 0, 0x63, 0, 0] 0) = some 32 := by decide +kernel

/-- V46. -/
theorem test_eMsghdr : ebitsAfter (.eMsghdr 1 20 42) base = bitsOf [0x04, 0x14, 0, 0, 0, 0, 0, 0, 0, 0x2A] := by
  decide +kernel
theorem test_eMsghdr_badOperand : respOf (.eMsghdr 8 20 42) base = failResp .badOperand 8 ∧
    respOf (.eMsghdr 1 1024 42) base = failResp .badOperand 1024 := by decide +kernel
theorem test_eMsglen : ebitsAfter (.eMsglen 0) (encoded (bytesToBits [0x04, 0x14, 0, 0, 0, 0, 0, 0, 0, 0x2A])) =
    bitsOf header10 := by decide +kernel
theorem test_eMsglen_badOperand : respOf (.eMsglen 0) (encoded (bytesToBits [0])) = failResp .badOperand 0 := by decide
theorem test_eTvhdr : ebitsAfter (.eTvhdr 1) base = bitsOf [0x81] ∧
    respOf (.eTvhdr 128) base = failResp .badOperand 128 := by decide
theorem test_eTlvhdr : ebitsAfter (.eTlvhdr 300) base = bitsOf [0x01, 0x2C, 0x00, 0x00] := by decide +kernel
theorem test_eTlvlen : ebitsAfter (.eTlvlen 0) (encoded (bytesToBits [0x01, 0x2C, 0x00, 0x00, 0x12, 0x34])) =
    bitsOf [0x01, 0x2C, 0x00, 0x06, 0x12, 0x34] := by decide +kernel
theorem test_eCustmsg : ebitsAfter (.eCustmsg 99 5 [0xDE, 0xAD]) base = bitsOf [0, 0, 0, 0x63, 0x05, 0xDE, 0xAD] := by
  decide +kernel
theorem test_eCustmsg_badOperand : respOf (.eCustmsg 99 256 []) base = failResp .badOperand 256 := by decide
theorem test_eCustpar : ebitsAfter (.eCustpar 99 5 [0xAA]) base = bitsOf [0, 0, 0, 0x63, 0, 0, 0, 0x05, 0xAA] := by
  decide +kernel

/-- V47. -/
theorem test_rOpen : exec .rOpen (inBody header12) =
    .next { base with resp := okResp .absent } := rfl
theorem test_rFeed_completes : respOf (.rFeed 0x02) (inBody (header12 ++ [0x01])) =
    okResp (.events [.messageComplete (header12 ++ [0x01, 0x02])]) := by decide +kernel
theorem test_rFeed_closed : exec (.rFeed 0) closedState = .next { closedState with resp := failResp .closed 1 } := rfl
theorem test_rFeedn : respOf (.rFeedn (header10 ++ header10)) base =
    okResp (.events [.messageComplete header10, .messageComplete header10]) := by decide +kernel
theorem test_rFeedn_fault : respOf (.rFeedn [0x04, 0x80, 0, 0, 0, 0x0A, 0, 0, 0, 0x2A, 0x99]) base =
    some ⟨.framingFault, 2, .events [.framingFault .badType]⟩ := by decide +kernel
theorem test_rClose : exec .rClose (inBody header12) =
    .next { closedState with resp := okResp .absent } := rfl
theorem test_rStat : respOf .rStat (inBody header12) = okResp (.stat .awaitingBody 0 12 10) := by decide +kernel

/-- A wire layout arrives as its own bytes (log entry 1). -/
theorem test_msghdr : respOf (.msghdr 0 1 20 10 42) base = okResp (.events [.messageComplete header10]) := by
  decide +kernel
theorem test_tvhdr : exec (.tvhdr 1) base = exec (.rFeedn [0x81]) base := rfl
theorem test_tlvhdr : respOf (.tlvhdr 0 300 6) (inBody header12) =
    respOf (.rFeedn [0x01, 0x2C, 0x00, 0x06]) (inBody header12) := by decide +kernel
theorem test_custmsgBody : respOf (.custmsgBody 99 5 [0xDE]) (inBody header12) =
    respOf (.rFeedn [0, 0, 0, 0x63, 0x05, 0xDE]) (inBody header12) := by decide +kernel
theorem test_custparBody : respOf (.custparBody 99 5 [0xAA]) (inBody header12) =
    respOf (.rFeedn [0, 0, 0, 0x63, 0, 0, 0, 0x05, 0xAA]) (inBody header12) := by decide +kernel

/-- R106: `D.SKIP 5`, `D.PEEK16`, `D.PROBE 21, 20` and `D.REWIND`. -/
theorem test_pseudo_operations :
    (match pseudoSkip 5 (loaded [4, 20] 3) with | .next t => t.dcur | _ => 99) = 8 ∧
    (match pseudoPeek16 (loaded [4, 20] 0) with | .next t => t.dcur | _ => 99) = 0 ∧
    (match pseudoProbe [21, 20] (loaded header10 0) with | .next t => t.dcur | _ => 99) = 80 ∧
    (match pseudoRewind (loaded [4, 20] 3) with | .next t => t.dcur | _ => 99) = 0 := by decide +kernel

/-! ## Part 4. The hypotheses of the statements can be met -/

/-- A length that fits, and one that does not. -/
theorem fits_of {cap : Option Nat} {n : Nat} (h : exceeds cap n = false) : Fits cap n :=
  (exceeds_eq_false_iff cap n).mp h

theorem not_fits_of {cap : Option Nat} {n : Nat} (h : exceeds cap n = true) : ¬Fits cap n :=
  (exceeds_eq_true_iff cap n).mp h

/-- A state with one item issued. -/
def issued (item : Item) : State := { base with pending := [item] }

theorem witness_StepRunsDecodedInstruction :
    (issued (.command 0x03 {})).pending = .command 0x03 {} :: [] ∧ decode (.command 0x03 {}) = .ok .dTell ∧
    base.pending = [] := ⟨rfl, rfl, rfl⟩

theorem witness_IllegalOperationsAreBadOperand :
    (issued (.command 0x75 {})).pending = .command 0x75 {} :: [] ∧
    (0x75 : BitVec 8).toNat ∉ [0x00, 0x01, 0x02, 0x03, 0x04, 0x05, 0x06, 0x10, 0x11, 0x12, 0x13, 0x14, 0x15, 0x16, 0x17,
      0x18, 0x20, 0x21, 0x22, 0x23, 0x24, 0x25, 0x26, 0x27, 0x28, 0x30, 0x31, 0x32, 0x33, 0x34, 0x40, 0x41, 0x42, 0x43,
      0x50, 0x51, 0x52, 0x53, 0x54, 0x55, 0x60, 0x61, 0x62, 0x63, 0x64, 0x65, 0x66, 0x70, 0x71, 0x72, 0x73, 0x74] ∧
    Instr.wellFormed (.dBits 65) = false ∧ (loaded [4, 20] 0).dlen < 17 := by
  decide

theorem witness_DecodeAndEncodeAgree :
    decode (.wire 8 0x81 []) = .ok (.tvhdr 1) ∧ decode (.wire 40 0x6305 [0xDE]) = .ok (.custmsgBody 99 5 [0xDE]) :=
  ⟨rfl, rfl⟩

theorem witness_LoadFillsDecodeBuffer :
    Fits (capped (some 16) none base).cfg.dcapBits (8 * [(4 : Byte), 20].length) ∧
    [(4 : Byte), 20][1]? = some 20 ∧ 7 < 8 ∧
    ¬Fits (capped (some 16) none base).cfg.dcapBits (8 * [(4 : Byte), 20, 0].length) :=
  ⟨fits_of rfl, rfl, by decide, not_fits_of rfl⟩

theorem witness_SeekSetsCursor : 16 ≤ (loaded [4, 20] 3).dlen ∧ (loaded [4, 20] 3).dlen < 17 := by decide

theorem witness_ReportsChangeNothing :
    Inv (nineBytes (Vector.replicate 10 0)) ∧ Inv (inBody header12) ∧ Inv (inBody (header12 ++ [0])) ∧ Inv closedState :=
  ⟨⟨by decide, by decide, by decide⟩, ⟨by decide, by decide, by decide +kernel⟩,
    ⟨by decide, by decide, by decide +kernel⟩, ⟨by decide, by decide, by decide⟩⟩

theorem witness_NewEmptiesAndReadReturnsBytes :
    (encoded (bytesToBits [4, 20])).elen % 8 = 0 ∧ (encoded []).elen % 8 = 0 ∧ (encoded [true]).elen % 8 ≠ 0 ∧
    [(4 : Byte), 20][1]? = some 20 := by decide

theorem witness_AccumulatorComputesMemRead : 3 + 5 ≤ (bytesToBits [0xA5]).length ∧ 0 + 0 ≤ ([] : List Bool).length := by
  decide

theorem witness_MixedWidthReadsAgree :
    3 + 3 + 10 ≤ (bytesToBits [4, 20]).length ∧ 3 + 13 ≤ (bytesToBits [4, 20]).length ∧ 3 + 10 ≤ 13 := by decide

theorem witness_MemWriteTouchesOnlyItsBits :
    3 + 13 ≤ (bytesToBits [4, 20, 0]).length ∧ 12 < 13 ∧ 2 < 3 ∧ 3 + 13 ≤ 16 := by decide

theorem witness_UnsignedDecodeReturnsField :
    DecodesUnsigned .dU16 16 ∧ (loaded [0, 0, 0] 8).dcur + 16 ≤ (loaded [0, 0, 0] 8).dlen ∧
    (loaded [0, 0, 0] 9).dlen < (loaded [0, 0, 0] 9).dcur + 16 ∧ DecodesUnsigned (.dBits 64) 64 :=
  ⟨.inl (by decide), by decide, by decide, .inr ⟨by decide, by decide, rfl⟩⟩

theorem witness_SignedDecodeReinterpretsField :
    DecodesSigned .dS16 16 ∧ (loaded [0x80, 0] 0).dcur + 16 ≤ (loaded [0x80, 0] 0).dlen ∧
    2 ^ (16 - 1) ≤ memValue (loaded [0x80, 0] 0).dbits (loaded [0x80, 0] 0).dcur 16 ∧
    memValue (loaded [0x7F, 0xFF] 0).dbits (loaded [0x7F, 0xFF] 0).dcur 16 < 2 ^ (16 - 1) ∧
    (loaded [0x80] 0).dlen < (loaded [0x80] 0).dcur + 16 := by
  refine ⟨?_, by decide, by decide +kernel, by decide +kernel, by decide⟩
  simp [DecodesSigned]

theorem witness_BitFieldDecode :
    0 < 1 ∧ 64 < 65 ∧ (1 ≤ 64 ∧ 64 ≤ 64) ∧
    (loaded [0, 0, 0, 0, 0, 0, 0, 0] 0).dcur + 64 ≤ (loaded [0, 0, 0, 0, 0, 0, 0, 0] 0).dlen ∧
    (loaded [] 0).dlen < (loaded [] 0).dcur + 1 := by decide

theorem witness_BitFieldsSplit :
    1 ≤ 4 ∧ 4 + 12 ≤ 64 ∧ (loaded [0xAB, 0xCD] 0).dcur + 4 + 12 ≤ (loaded [0xAB, 0xCD] 0).dlen ∧
    (loaded [0xAB] 0).dcur + 4 ≤ (loaded [0xAB] 0).dlen ∧ (loaded [0xAB] 0).dlen < (loaded [0xAB] 0).dcur + 4 + 12 := by
  decide

theorem witness_ScalarEncodeAppendsField :
    (EncodesUnsigned .eU16 16 ∨ EncodesSigned .eU16 16) ∧ (EncodesUnsigned .eS64 64 ∨ EncodesSigned .eS64 64) ∧
    Fits (capped none (some 16) base).cfg.ecapBits ((capped none (some 16) base).elen + 16) ∧
    ¬Fits (capped none (some 16) (encoded [true])).cfg.ecapBits ((capped none (some 16) (encoded [true])).elen + 16) :=
  ⟨.inl (.inl (by simp)), .inr (by simp [EncodesSigned]), fits_of rfl, not_fits_of rfl⟩

theorem witness_BitFieldEncode :
    0 < 1 ∧ 64 < 65 ∧ (1 ≤ 1 ∧ 1 ≤ 64) ∧
    Fits (capped none (some 8) (encoded (List.replicate 7 false))).cfg.ecapBits
      ((capped none (some 8) (encoded (List.replicate 7 false))).elen + 1) ∧
    ¬Fits (capped none (some 8) (encoded (List.replicate 7 false))).cfg.ecapBits
      ((capped none (some 8) (encoded (List.replicate 7 false))).elen + 2) :=
  ⟨by decide, by decide, by decide, fits_of rfl, not_fits_of rfl⟩

theorem witness_PortBitsAboveFieldIgnored :
    EncodesUnsigned .eU8 8 ∧ (0x12A : Port).toNat % 2 ^ 8 = (0x2A : Port).toNat % 2 ^ 8 ∧
    Fits base.cfg.ecapBits (base.elen + 8) ∧ -(2 ^ (8 - 1) : Int) ≤ -128 ∧ (127 : Int) < 2 ^ (8 - 1) ∧ 255 < 2 ^ 8 :=
  ⟨.inl (by simp), by decide, fits_of rfl, by decide, by decide, by decide⟩

theorem witness_ScalarRoundTrip :
    ScalarPair .eS16 .dS16 16 (fun val => .sval ((val.setWidth 16).toInt)) ∧
    ScalarPair (.eBits 63) (.dBits 63) 63 (fun val => .uval (val.toNat % 2 ^ 63)) ∧
    ScalarPair .eBool .dBool 1 (fun val => .uval (val.toNat % 2 ^ 1)) ∧
    Fits base.cfg.ecapBits (base.elen + 16) ∧ (encoded (bytesToBits [0xFF, 0xFE] ++ [])).elen % 8 = 0 ∧
    Fits base.cfg.dcapBits 16 :=
  ⟨.inr (.inr ⟨by simp, rfl⟩), .inr (.inl ⟨by decide, by decide, rfl, rfl, rfl⟩), .inl ⟨by simp, rfl⟩, fits_of rfl,
    by decide, fits_of rfl⟩

theorem witness_FieldsAreConcatenated :
    (∀ p ∈ [((1 : Nat), (1 : Port)), (64, 0)], 1 ≤ p.1 ∧ p.1 ≤ 64) ∧
    Fits (capped none (some 72) base).cfg.ecapBits ([((1 : Nat), (1 : Port)), (64, 0)].map Prod.fst).sum :=
  ⟨by decide, fits_of rfl⟩

theorem witness_ArrayDecodeReturnsElements :
    (loaded [1, 2, 3] 8).dcur + 8 * 2 ≤ (loaded [1, 2, 3] 8).dlen ∧
    (loaded [1, 2, 3] 9).dlen < (loaded [1, 2, 3] 9).dcur + 8 * 2 ∧
    (loaded [1, 2, 3] 8).dcur + 16 * 1 ≤ (loaded [1, 2, 3] 8).dlen ∧
    (loaded [1, 2, 3] 9).dlen < (loaded [1, 2, 3] 9).dcur + 16 * 1 ∧
    [(2 : Byte), 3][1]? = some 3 ∧ [(0x0203 : Word)][0]? = some 0x0203 := by decide

theorem witness_BitVectorDecodeReturnsLogicalBits :
    (9 ≤ 16 ∧ 16 < 9 + 8 ∧ 16 % 8 = 0) ∧ (8 ≤ 8 ∧ 8 < 8 + 8) ∧ (loaded [0xCC, 0xC0] 0).dcur + 16 ≤ (loaded [0xCC, 0xC0] 0).dlen ∧
    (loaded [0xCC] 0).dlen < (loaded [0xCC] 0).dcur + 16 := by decide

theorem witness_OpaqueDecodeReadsToEnd :
    15 < (loaded [1, 2, 3, 4] 16).dcur ∧
    ((loaded [1, 2, 3, 4] 16).dcur ≤ 33 ∧ (loaded [1, 2, 3, 4] 16).dlen < 33) ∧
    ((loaded [1, 2, 3, 4] 16).dcur ≤ 31 ∧ 31 ≤ (loaded [1, 2, 3, 4] 16).dlen ∧
      (31 - (loaded [1, 2, 3, 4] 16).dcur) % 8 ≠ 0) ∧
    ((loaded [1, 2, 3, 4] 16).dcur ≤ 32 ∧ 32 ≤ (loaded [1, 2, 3, 4] 16).dlen ∧
      (32 - (loaded [1, 2, 3, 4] 16).dcur) % 8 = 0) ∧
    (16 - (loaded [1, 2, 3, 4] 16).dcur) % 8 = 0 := by decide

theorem witness_ArrayEncodeAppendsElements :
    Fits (capped none (some 16) base).cfg.ecapBits ((capped none (some 16) base).elen + 8 * [(1 : Byte), 2].length) ∧
    ¬Fits (capped none (some 16) base).cfg.ecapBits ((capped none (some 16) base).elen + 8 * [(1 : Byte), 2, 3].length) ∧
    Fits (capped none (some 16) base).cfg.ecapBits ((capped none (some 16) base).elen + 16 * [(1 : Word)].length) ∧
    ¬Fits (capped none (some 16) base).cfg.ecapBits ((capped none (some 16) base).elen + 16 * [(1 : Word), 2].length) ∧
    [(1 : Byte), 2][1]? = some 2 ∧ [(1 : Word)][0]? = some 1 :=
  ⟨fits_of rfl, not_fits_of rfl, fits_of rfl, not_fits_of rfl, rfl, rfl⟩

theorem witness_BitVectorEncodePadsWithZeros :
    ([true].length ≤ 8 ∧ 8 < [true].length + 8 ∧ 8 % 8 = 0) ∧
    Fits (capped none (some 8) base).cfg.ecapBits ((capped none (some 8) base).elen + 8) ∧
    ¬Fits (capped none (some 8) (encoded [true])).cfg.ecapBits ((capped none (some 8) (encoded [true])).elen + 8) :=
  ⟨by decide, fits_of rfl, not_fits_of rfl⟩

theorem witness_SequenceRoundTrip :
    (∃ l : List Bool, Instr.eBitv [true, false] = .eBitv l ∧ Instr.dBitv 2 = .dBitv l.length ∧
      Results.bits [true, false] = .bits l ∧ 8 = ceil8 l.length) ∧
    (∃ l : List Word, Instr.eArr16 [258] = .eArr16 l ∧ Instr.dArr16 1 = .dArr16 l.length ∧
      Results.words [258] = .words l ∧ 16 = 16 * l.length) ∧
    (∃ l : List Byte, Instr.eArr8 [] = .eArr8 l ∧ Instr.dArr8 0 = .dArr8 l.length ∧ Results.bytes [] = .bytes l ∧
      0 = 8 * l.length) ∧
    (∃ l : List Byte, Instr.eStr [7] = .eStr l ∧ Instr.dStr 1 = .dStr l.length ∧ Results.bytes [7] = .bytes l ∧
      8 = 8 * l.length) ∧
    Fits base.cfg.ecapBits (base.elen + 16) ∧ (encoded (bytesToBits [0x80] ++ [])).elen % 8 = 0 ∧
    Fits base.cfg.dcapBits 8 :=
  ⟨⟨_, rfl, rfl, rfl, rfl⟩, ⟨_, rfl, rfl, rfl, rfl⟩, ⟨_, rfl, rfl, rfl, rfl⟩, ⟨_, rfl, rfl, rfl, rfl⟩, fits_of rfl,
    by decide, fits_of rfl⟩

theorem witness_ArrayDecodeIsElementwise :
    (loaded [1, 2, 3] 8).dcur + 8 * 2 ≤ (loaded [1, 2, 3] 8).dlen ∧
    (loaded [1, 2, 3] 8).dcur + 16 * 1 ≤ (loaded [1, 2, 3] 8).dlen ∧
    (loaded [1, 2, 3] 8).dcur + ceil8 9 ≤ (loaded [1, 2, 3] 8).dlen := by decide

theorem witness_ArrayEncodeIsElementwise :
    Fits (capped none (some 16) base).cfg.ecapBits ((capped none (some 16) base).elen + 8 * [(1 : Byte), 2].length) ∧
    Fits (capped none (some 16) base).cfg.ecapBits ((capped none (some 16) base).elen + 16 * [(1 : Word)].length) ∧
    Fits (capped none (some 16) base).cfg.ecapBits
      ((capped none (some 16) base).elen + ceil8 (List.replicate 9 true).length) :=
  ⟨fits_of rfl, fits_of rfl, fits_of rfl⟩

/-- The clauses of `MessageHeaderDecode`, in their order; the header stands at offset 8. -/
theorem witness_MessageHeaderDecode :
    1023 < 1024 ∧ 1023 ≤ 1023 ∧ (loaded [0, 4, 20] 9).dlen < (loaded [0, 4, 20] 9).dcur + 16 ∧
    (8 + 16 ≤ (loaded [0, 4, 20] 8).dlen ∧ memValue (loaded [0, 4, 20] 8).dbits (8 + 6) 10 ≠ 21) ∧
    (memValue (loaded [0, 4, 20, 0, 0, 0] 8).dbits (8 + 6) 10 = 20 ∧ 8 + 16 ≤ (loaded [0, 4, 20, 0, 0, 0] 8).dlen ∧
      (loaded [0, 4, 20, 0, 0, 0] 8).dlen < 8 + 48) ∧
    (8 + 48 ≤ (loaded (0 :: header10.take 9) 8).dlen ∧ (loaded (0 :: header10.take 9) 8).dlen < 8 + 80 ∧
      memValue (loaded (0 :: header10.take 9) 8).dbits (8 + 6) 10 = 20) ∧
    (8 + 80 ≤ (loaded (0 :: [4, 20, 0, 0, 0, 9, 0, 0, 0, 42]) 8).dlen ∧
      memValue (loaded (0 :: [4, 20, 0, 0, 0, 9, 0, 0, 0, 42]) 8).dbits (8 + 16) 32 < 10) ∧
    (10 ≤ memValue (loaded (0 :: header12) 8).dbits (8 + 16) 32 ∧
      (loaded (0 :: header12) 8).dlen < 8 + 8 * memValue (loaded (0 :: header12) 8).dbits (8 + 16) 32) ∧
    (memValue (loaded (0 :: header10) 8).dbits (8 + 6) 10 = 20 ∧
      10 ≤ memValue (loaded (0 :: header10) 8).dbits (8 + 16) 32 ∧
      8 + 8 * memValue (loaded (0 :: header10) 8).dbits (8 + 16) 32 ≤ (loaded (0 :: header10) 8).dlen) := by
  decide +kernel

theorem witness_ProbesLeaveNoTrace :
    (loaded [4, 20] 0).dcur + 16 ≤ (loaded [4, 20] 0).dlen ∧
    20 = memValue (loaded [4, 20] 0).dbits ((loaded [4, 20] 0).dcur + 6) 10 ∧
    ∀ e ∈ [21, 1023, 0], e ≤ 1023 ∧ e ≠ 20 := by decide +kernel

/-- Reserved bits of a message header, of a TLV header, and padding bits, changed. -/
theorem witness_IgnoredBitsHaveNoEffect :
    (loaded [0xE4, 20] 0 = { loaded [4, 20] 0 with dbits := (loaded [0xE4, 20] 0).dbits } ∧
      (loaded [0xE4, 20] 0).dlen = (loaded [4, 20] 0).dlen ∧
      (loaded [0xE4, 20] 0).dbits.drop 3 = (loaded [4, 20] 0).dbits.drop 3) ∧
    ((loaded [0x7D, 0x2C] 0).dbits[0]? = some false ∧ (loaded [0x01, 0x2C] 0).dbits[0]? = some false ∧
      (loaded [0x7D, 0x2C] 0).dbits.drop 6 = (loaded [0x01, 0x2C] 0).dbits.drop 6) ∧
    ((loaded [0xCC, 0xFF] 0).dbits.take 10 = (loaded [0xCC, 0xC0] 0).dbits.take 10 ∧ ceil8 10 = 16) := by decide

theorem witness_ParameterHeaderDecode :
    (loaded [] 0).dlen < 0 + 1 ∧
    ((loaded [0, 0x81] 9).dlen < 9 + 8 ∧ (loaded [0, 0xC0] 9).dbits[9]? = some true) ∧
    ((loaded [0, 0x82] 8).dbits[8]? = some true ∧ 2 = memValue (loaded [0, 0x82] 8).dbits (8 + 1) 7 ∧
      8 + 8 ≤ (loaded [0, 0x82] 8).dlen ∧ testCfg.tvLen[2]? = some none) ∧
    (1 = memValue (loaded [0, 0x81] 8).dbits (8 + 1) 7 ∧ testCfg.tvLen[1]? = some (some 16)) ∧
    ((loaded [0x01] 0).dbits[0]? = some false ∧ (loaded [0x01] 0).dlen < 0 + 16) ∧
    ((loaded [0x01, 0x2C, 0x00] 0).dbits[0]? = some false ∧ 0 + 16 ≤ (loaded [0x01, 0x2C, 0x00] 0).dlen ∧
      (loaded [0x01, 0x2C, 0x00] 0).dlen < 0 + 32) ∧
    (300 = memValue (loaded [0x01, 0x2C, 0x00, 0x03] 0).dbits (0 + 6) 10 ∧
      3 = memValue (loaded [0x01, 0x2C, 0x00, 0x03] 0).dbits (0 + 16) 16 ∧
      0 + 32 ≤ (loaded [0x01, 0x2C, 0x00, 0x03] 0).dlen) ∧
    4 = memValue (loaded [0x01, 0x2C, 0x00, 0x04] 0).dbits (0 + 16) 16 := by decide +kernel

theorem witness_EndChecksCompareCursor :
    (loaded [1, 2] 16).dcur = 16 ∧ 0 < 1 ∧ (loaded [1, 2] 15).dcur + 1 = 16 ∧ 15 + 1 = (loaded [1, 2] 16).dcur := by
  decide

theorem witness_CustomBodyDecode :
    ((Instr.dCustmsg 48 = .dCustmsg 48 ∧ 8 = 8) ∨ (Instr.dCustmsg 48 = .dCustpar 48 ∧ 8 = 32)) ∧
    (loaded [0, 0, 0] 0).dlen < 0 + 32 ∧
    (0 + 32 ≤ (loaded [0, 0, 0, 99] 0).dlen ∧ (loaded [0, 0, 0, 99] 0).dlen < 0 + 32 + 8) ∧
    (0 + 32 + 8 ≤ (loaded [0, 0, 0, 99, 5, 1] 0).dlen ∧ 39 < 0 + 32 + 8) ∧
    (loaded [0, 0, 0, 99, 5, 1] 0).dlen < 49 ∧
    (0 + 32 + 8 ≤ 47 ∧ 47 ≤ (loaded [0, 0, 0, 99, 5, 1] 0).dlen ∧ (47 - (0 + 32 + 8)) % 8 ≠ 0) ∧
    (0 + 32 + 8 ≤ 48 ∧ 48 ≤ (loaded [0, 0, 0, 99, 5, 1] 0).dlen ∧ (48 - (0 + 32 + 8)) % 8 = 0) ∧
    (40 - (0 + 32 + 8)) % 8 = 0 := by decide

theorem witness_MessageHeaderEncode :
    (7 < 8 ∨ 1023 < 20 ∨ 2 ^ 32 - 1 < 42) ∧ (7 < 1 ∨ 1023 < 1024 ∨ 2 ^ 32 - 1 < 42) ∧
    (7 ≤ 7 ∧ 1023 ≤ 1023) ∧ 4294967295 ≤ 2 ^ 32 - 1 ∧
    Fits (capped none (some 80) base).cfg.ecapBits ((capped none (some 80) base).elen + 80) ∧
    ¬Fits (capped none (some 80) (encoded [true])).cfg.ecapBits ((capped none (some 80) (encoded [true])).elen + 80) :=
  ⟨by decide, by decide, by decide, by decide, fits_of rfl, not_fits_of rfl⟩

theorem witness_ParameterHeaderEncode :
    127 < 128 ∧ 127 ≤ 127 ∧ 1023 < 1024 ∧ 1023 ≤ 1023 ∧
    Fits (capped none (some 8) base).cfg.ecapBits ((capped none (some 8) base).elen + 8) ∧
    ¬Fits (capped none (some 8) (encoded [true])).cfg.ecapBits ((capped none (some 8) (encoded [true])).elen + 8) ∧
    Fits (capped none (some 32) base).cfg.ecapBits ((capped none (some 32) base).elen + 32) ∧
    ¬Fits (capped none (some 32) (encoded [true])).cfg.ecapBits ((capped none (some 32) (encoded [true])).elen + 32) :=
  ⟨by decide, by decide, by decide, by decide, fits_of rfl, not_fits_of rfl, fits_of rfl, not_fits_of rfl⟩

theorem witness_CustomBodyEncode :
    ((Instr.eCustmsg 99 255 [1] = .eCustmsg 99 255 [1] ∧ 8 = 8) ∨ (Instr.eCustmsg 99 255 [1] = .eCustpar 99 255 [1] ∧ 8 = 32)) ∧
    (2 ^ 32 - 1 < 4294967296 ∨ 2 ^ 8 - 1 < 5) ∧ (2 ^ 32 - 1 < 99 ∨ 2 ^ 8 - 1 < 256) ∧ 255 ≤ 2 ^ 8 - 1 ∧
    Fits (capped none (some 48) base).cfg.ecapBits ((capped none (some 48) base).elen + (32 + 8 + 8 * [(1 : Byte)].length)) ∧
    ¬Fits (capped none (some 40) base).cfg.ecapBits
      ((capped none (some 40) base).elen + (32 + 8 + 8 * [(1 : Byte)].length)) ∧
    [(1 : Byte)][0]? = some 1 :=
  ⟨by decide, by decide, by decide, by decide, fits_of rfl, not_fits_of rfl, rfl⟩

theorem elen_encoded (n : Nat) : (encoded (List.replicate n false)).elen = n := List.length_replicate

/-- A TLV header at offset 0, missing one bit, followed by one bit, by a whole byte, and by 65532 bytes. -/
theorem witness_LengthPatchOverwritesField :
    (encoded (List.replicate 31 false)).elen < 0 + 32 ∧
    (0 + 32 ≤ (encoded (List.replicate 33 false)).elen ∧ ((encoded (List.replicate 33 false)).elen - 0) % 8 ≠ 0) ∧
    (0 + 32 ≤ (encoded (List.replicate 32 false)).elen ∧ ((encoded (List.replicate 32 false)).elen - 0) % 8 = 0 ∧
      ((encoded (List.replicate 32 false)).elen - 0) / 8 ≤ 2 ^ 16 - 1) ∧
    (0 + 80 ≤ (encoded (List.replicate 88 false)).elen ∧ ((encoded (List.replicate 88 false)).elen - 0) / 8 ≤ 2 ^ 32 - 1) ∧
    ∃ s : State, 0 + 32 ≤ s.elen ∧ (s.elen - 0) % 8 = 0 ∧ 2 ^ 16 - 1 < (s.elen - 0) / 8 :=
  ⟨by decide, by decide, by decide, by decide +kernel, encoded (List.replicate 524288 false),
    by rw [elen_encoded]; decide, by rw [elen_encoded], by rw [elen_encoded]; decide⟩

theorem witness_MessageRoundTrip :
    7 ≤ 7 ∧ 1023 ≤ 1023 ∧ 4294967295 ≤ 2 ^ 32 - 1 ∧ (bytesToBits [1]).length % 8 = 0 ∧
    10 + (bytesToBits [1]).length / 8 ≤ 2 ^ 32 - 1 ∧ Fits base.cfg.ecapBits (80 + 8) ∧ Fits base.cfg.dcapBits (80 + 8) :=
  ⟨by decide, by decide, by decide, by decide, by decide, fits_of rfl, fits_of rfl⟩

theorem witness_ParameterRoundTrip :
    300 ≤ 1023 ∧ (bytesToBits [0x12, 0x34]).length % 8 = 0 ∧ 4 + (bytesToBits [0x12, 0x34]).length / 8 ≤ 65535 ∧
    Fits base.cfg.ecapBits (32 + 16) ∧ Fits base.cfg.dcapBits (32 + 16) :=
  ⟨by decide, by decide, by decide, fits_of rfl, fits_of rfl⟩

theorem witness_OpenAndCloseEmptyReassembler :
    closedState.rstate = .closed ∧ ∃ t, exec .rOpen closedState = .next t ∧ t.rstate ≠ .closed :=
  ⟨rfl, _, rfl, by decide⟩

theorem witness_HeaderParseAndValidation :
    10 ≤ header10.length ∧ 2 ≠ testCfg.supportedVersion.toNat ∧ 1 = testCfg.supportedVersion.toNat ∧
    (127 < 128 ∧ 128 ≠ 1023) ∧ (127 ≤ 127 ∨ 127 = 1023) ∧ 9 < 10 ∧ (10 ≤ 65537 ∧ testCfg.maxMsgLen < 65537) ∧
    (10 ≤ 65536 ∧ 65536 ≤ testCfg.maxMsgLen) := by decide

theorem witness_FeedByteTransitions :
    closedState.rstate = .closed ∧
    (base.rstate = .awaitingHeader ∧ base.hcnt < 9) ∧
    ((nineBytes #v[4, 20, 0, 0, 0, 10, 0, 0, 0, 0]).rstate = .awaitingHeader ∧
      (nineBytes #v[4, 20, 0, 0, 0, 10, 0, 0, 0, 0]).hcnt = 9) ∧
    header10 = (nineBytes #v[4, 20, 0, 0, 0, 10, 0, 0, 0, 0]).hdr.toList.take 9 ++ [42] ∧
    validate testCfg (parseHeader [4, 20, 0, 0, 0, 9, 0, 0, 0, 42]) = some .lengthTooSmall ∧
    (validate testCfg (parseHeader header10) = none ∧ (parseHeader header10).length = 10) ∧
    (validate testCfg (parseHeader header12) = none ∧ (parseHeader header12).length ≠ 10) ∧
    ((inBody header12).rstate = .awaitingBody ∧ (inBody header12).mcnt + 1 ≠ (inBody header12).mlen) ∧
    (inBody (header12 ++ [1])).mcnt + 1 = (inBody (header12 ++ [1])).mlen := by decide +kernel

theorem witness_ClosedReassemblerDiscards : closedState.rstate = .closed := rfl

theorem witness_FeedChunkFoldsFeedByte : closedState.rstate = .closed ∧ base.rstate ≠ .closed ∧ (inBody header12).rstate ≠ .closed := by decide

/-- Ten bytes fed to an empty reassembler: one message and no fault. -/
theorem witness_MessagesAreSlicesOfStream :
    Inv base ∧ base.rstate ≠ .closed ∧
    (∀ c ∈ [Cause.badVersion, .badType, .lengthTooSmall, .lengthTooLarge],
      Event.framingFault c ∉ [Event.messageComplete header10]) ∧
    respOf (.rFeedn header10) base = okResp (.events [.messageComplete header10]) :=
  ⟨⟨by decide, by decide, by decide⟩, by decide, by decide, by decide +kernel⟩

theorem witness_EmittedMessagesStayValid :
    Inv (inBody (header12 ++ [1])) ∧ EmittedOk (inBody (header12 ++ [1])) ∧
    (∃ t, step { inBody (header12 ++ [1]) with pending := [.command 0x71 { b := 2 }] } = .next t) ∧
    EmittedOk { base with rout := [.messageComplete header10] } := by
  refine ⟨⟨by decide, by decide, by decide +kernel⟩, ?_, ⟨_, rfl⟩, ?_⟩
  · intro m hm
    cases hm
  · intro m hm
    have e : m = header10 := by simpa using hm
    subst e
    decide +kernel

theorem witness_EmittedMessagesDecode :
    messageOk testCfg header10 = true ∧ Fits (capped (some 80) none base).cfg.dcapBits (8 * header10.length) :=
  ⟨by decide +kernel, fits_of rfl⟩

theorem witness_FramingFaultIsFinal :
    closedState.rstate = .closed ∧ ∀ i ∈ [Instr.rFeedn header10, .rClose, .dTell], i ≠ .rOpen ∧ i ≠ .reset := by decide

theorem witness_WireLayoutsArriveAsBytes : base.rstate ≠ .closed ∧ (inBody header12).rstate ≠ .closed := by decide

theorem witness_EveryStepKeepsInvariant :
    Inv (issued (.command 0x71 { b := 4 })) ∧ ∃ t, step (issued (.command 0x71 { b := 4 })) = .next t :=
  ⟨⟨by decide, by decide, by decide⟩, _, rfl⟩

theorem witness_EveryMarkedStatusIsReached :
    opCode (.dMsghdr 20) ≠ none ∧ Status.typeMismatch ∈ marked (.dMsghdr 20) ∧
    respOf (.dMsghdr 21) (loaded [4, 20] 0) = failResp .typeMismatch 20 := by decide +kernel

theorem witness_OperationsChangeOnlyTheirUnit :
    (∃ t, exec .dBool (loaded [0x80] 0) = .next t) ∧ unitOf .dBool = .decodeSide ∧ (∀ bytes, Instr.dBool ≠ .dLoad bytes) ∧
    unitOf (.eBool 1) = .encodeSide ∧ unitOf (.rFeed 4) = .reassembler ∧ unitOf .reset = .whole :=
  ⟨⟨_, rfl⟩, rfl, by simp, rfl, rfl, rfl⟩

theorem witness_OperationsOfDifferentUnitsCommute :
    unitOf .dBool ≠ unitOf (.rFeed 4) ∧ unitOf .dBool ≠ .whole ∧ unitOf (.rFeed 4) ≠ .whole := by decide

/-- A failure that moves the cursor, and a framing fault. -/
theorem witness_FailuresChangeOnlyWhatTheyMay :
    respOf (.dMsghdr 20) (loaded [4, 20, 0, 0] 0) = failResp .truncatedInput 16 ∧
    curAfter (.dMsghdr 20) (loaded [4, 20, 0, 0] 0) = some 16 ∧
    respOf (.rFeed 42) (nineBytes #v[4, 20, 0, 0, 0, 9, 0, 0, 0, 0]) =
      some ⟨.framingFault, 3, .events [.framingFault .lengthTooSmall]⟩ := by decide +kernel

end Sys2Proof.Tests
end

section
/-! PROOFS. 00_scope.md section 6, `MemWrite` (R15): the bit that stands at each offset of a buffer after a write. -/

namespace Sys2Proof.Machine

/-- R170: bit `i` of an `n`-bit string is value bit `n - 1 - i`. -/
theorem getElem?_natToBits (n v i : Nat) (hi : i < n) : (natToBits n v)[i]? = some (v.testBit (n - 1 - i)) := by
  induction n generalizing i with
  | zero => omega
  | succ n ih =>
    cases i with
    | zero => simp [natToBits]
    | succ i =>
      rw [natToBits, List.getElem?_cons_succ, ih i (by omega)]
      congr 2
      omega

/-- R15, the bits written: offset `off + i` holds bit `i` of the string. -/
theorem getElem?_memWrite_inside (bits : List Bool) (off n v i : Nat) (h : off + n ≤ bits.length) (hi : i < n) :
    (memWrite bits off n v)[off + i]? = some (v.testBit (n - 1 - i)) := by
  have hoff : (bits.take off).length = off := List.length_take_of_le (by omega)
  rw [memWrite, List.append_assoc, List.getElem?_append_right (by omega), hoff, Nat.add_sub_cancel_left,
    List.getElem?_append_left (by simpa using hi), getElem?_natToBits n v i hi]

/-- R15, the frame below the field. -/
theorem getElem?_memWrite_before (bits : List Bool) (off n v k : Nat) (h : off + n ≤ bits.length) (hk : k < off) :
    (memWrite bits off n v)[k]? = bits[k]? := by
  rw [memWrite, List.append_assoc, List.getElem?_append_left (by rw [List.length_take]; omega),
    List.getElem?_take_of_lt hk]

/-- R15, the frame above the field. -/
theorem getElem?_memWrite_after (bits : List Bool) (off n v k : Nat) (h : off + n ≤ bits.length) (hk : off + n ≤ k) :
    (memWrite bits off n v)[k]? = bits[k]? := by
  have hlen : (bits.take off ++ natToBits n v).length = off + n := by
    rw [List.length_append, List.length_take_of_le (by omega), length_natToBits]
  rw [memWrite, List.getElem?_append_right (by omega), hlen, List.getElem?_drop, Nat.add_sub_cancel' hk]

/-- Settles O12, from the length of a write and the bit at each offset inside, below and above the field. -/
theorem memWriteTouchesOnlyItsBits : Obligations.MemWriteTouchesOnlyItsBits := by
  intro bits off n v h
  refine ⟨length_memWrite bits off n v h, fun i hi => getElem?_memWrite_inside bits off n v i h hi, ?_⟩
  rintro k (hk | hk)
  · exact getElem?_memWrite_before bits off n v k h hk
  · exact getElem?_memWrite_after bits off n v k h hk

end Sys2Proof.Machine
end

section
/-! PROOFS. 10_state.md section 6 (R31, with R21, R23, R29, R34): an operation reads and writes its own unit's part of
the state. The part is grafted onto any surroundings; what an operation does there is the effect it has anywhere. -/

namespace Sys2Proof.Machine

/-! ## A unit's part of the state -/

/-- `u` with the part of `t` that belongs to the unit (R31). `rout` is left out: an operation only adds to it (R29). -/
def BlockUnit.graft (U : BlockUnit) (u t : State) : State :=
  match U with
  | .decodeSide => { u with dbits := t.dbits, dcur := t.dcur }
  | .encodeSide => { u with ebits := t.ebits }
  | .reassembler =>
    { u with rstate := t.rstate, hdr := t.hdr, hcnt := t.hcnt, mbuf := t.mbuf, mlen := t.mlen }
  | .whole =>
    { u with
      dbits := t.dbits, dcur := t.dcur, ebits := t.ebits, rstate := t.rstate, hdr := t.hdr, hcnt := t.hcnt
      mbuf := t.mbuf, mlen := t.mlen }

@[simp] theorem BlockUnit.graft_cfg (U : BlockUnit) (u t : State) : (U.graft u t).cfg = u.cfg := by
  cases U <;> rfl

@[simp] theorem BlockUnit.graft_self (U : BlockUnit) (s : State) : U.graft s s = s := by
  cases U <;> rfl

/-- What one operation does. -/
structure Effect where
  /-- A state that holds the unit's part as the operation leaves it. -/
  after : State
  /-- The events put out. -/
  events : List Event
  response : Response

/-- The state after an operation of the unit with that effect, issued in `u`. -/
def Effect.on (e : Effect) (U : BlockUnit) (u : State) : State :=
  { U.graft u e.after with rout := u.rout ++ e.events, resp := some e.response }

@[simp] theorem Effect.on_cfg (e : Effect) (U : BlockUnit) (u : State) : (e.on U u).cfg = u.cfg :=
  U.graft_cfg u e.after

theorem Effect.on_silent {e : Effect} (h : e.events = []) (U : BlockUnit) (u : State) :
    e.on U u = (U.graft u e.after).setResp e.response := by
  simp only [Effect.on, h, List.append_nil]
  cases U <;> rfl

/-- Issued in any state that has the unit's part and the configuration of `s`, the operation `f` has one and the same
effect; the part it leaves satisfies `P`, and only the reassembler puts events out. -/
def LocalTo (U : BlockUnit) (P : State → Prop) (s : State) (f : State → Host.Outcome State Fault Refusal) : Prop :=
  ∃ e : Effect, P e.after ∧ (U ≠ .reassembler → e.events = []) ∧
    ∀ u, u.cfg = s.cfg → f (U.graft u s) = .next (e.on U u)

theorem LocalTo.mono {U : BlockUnit} {P Q : State → Prop} {s : State} {f : State → Host.Outcome State Fault Refusal}
    (hPQ : ∀ t, P t → Q t) (h : LocalTo U P s f) : LocalTo U Q s f :=
  let ⟨e, hP, hrest⟩ := h
  ⟨e, hPQ _ hP, hrest⟩

/-! ## Parts of an operation -/

/-- Two runs of a part of an operation, the second in the surroundings `u`: they end alike, and the second state is the
unit's part of the first grafted onto `u`. -/
inductive Ret.SameIn (U : BlockUnit) (u : State) (P : State → Prop) {α : Type} : Ret α → Ret α → Prop where
  | ok (a : α) {t : State} (h : P t) : Ret.SameIn U u P (.ok a t) (.ok a (U.graft u t))
  | raised (status : Status) (info : Nat) {t : State} (h : P t) :
    Ret.SameIn U u P (.raised status info t) (.raised status info (U.graft u t))

section
variable {U : BlockUnit} {u : State} {P : State → Prop} {α β : Type}

theorem Ret.SameIn.andThen {x x' : Ret α} {f f' : α → State → Ret β} (h : Ret.SameIn U u P x x')
    (hf : ∀ a t, P t → Ret.SameIn U u P (f a t) (f' a (U.graft u t))) :
    Ret.SameIn U u P (x.andThen f) (x'.andThen f') := by
  cases h with
  | ok a h => exact hf a _ h
  | raised status info h => exact .raised status info h

theorem Ret.SameIn.ite {c : Prop} [Decidable c] {x x' y y' : Ret α} (hx : Ret.SameIn U u P x x')
    (hy : Ret.SameIn U u P y y') : Ret.SameIn U u P (if c then x else y) (if c then x' else y') := by
  by_cases h : c
  · simpa [h] using hx
  · simpa [h] using hy

end

/-- The effect of an operation that ends as `r` does: it puts out no event. -/
def Ret.effect : Ret Results → Effect
  | .ok results t => ⟨t, [], ⟨.ok, 0, results⟩⟩
  | .raised status info t => ⟨t, [], ⟨status, info, .absent⟩⟩

@[simp] theorem Ret.effect_events (r : Ret Results) : r.effect.events = [] := by
  cases r <;> rfl

theorem Ret.SameIn.effect_after {U : BlockUnit} {u : State} {P : State → Prop} {x y : Ret Results}
    (h : Ret.SameIn U u P x y) : P x.effect.after := by
  cases h with
  | ok _ hP => exact hP
  | raised _ _ hP => exact hP

theorem Ret.SameIn.respond_eq {U : BlockUnit} {u : State} {P : State → Prop} {x y : Ret Results}
    (h : Ret.SameIn U u P x y) : y.respond = .next (x.effect.on U u) := by
  rw [Effect.on_silent x.effect_events]
  cases h with
  | ok _ _ => rfl
  | raised _ _ _ => rfl

/-- An operation whose body runs alike in all surroundings is local. -/
theorem localTo_respond {U : BlockUnit} {P : State → Prop} {s : State} {f : State → Ret Results}
    (h : ∀ u, u.cfg = s.cfg → Ret.SameIn U u P (f s) (f (U.graft u s))) : LocalTo U P s fun t => (f t).respond :=
  ⟨(f s).effect, (h s rfl).effect_after, fun _ => (f s).effect_events, fun u hu => (h u hu).respond_eq⟩

/-! ## Decode side -/

/-- Nothing but the cursor has changed since `s`. -/
def CursorMoved (s t : State) : Prop :=
  ∃ cur, t = s.setDcur cur

theorem CursorMoved.refl (s : State) : CursorMoved s s := ⟨s.dcur, rfl⟩

theorem CursorMoved.setDcur {s t : State} (h : CursorMoved s t) (cur : Nat) : CursorMoved s (t.setDcur cur) := by
  obtain ⟨c, rfl⟩ := h
  exact ⟨cur, rfl⟩

theorem CursorMoved.dbits {s t : State} (h : CursorMoved s t) : t.dbits = s.dbits := by
  obtain ⟨c, rfl⟩ := h
  rfl

theorem CursorMoved.cfg {s t : State} (h : CursorMoved s t) : t.cfg = s.cfg := by
  obtain ⟨c, rfl⟩ := h
  rfl

/-- Two runs of a part of a decode operation that began in `s` and in its part grafted onto `u`. -/
abbrev Ret.DecodeAlike (s u : State) {α : Type} : Ret α → Ret α → Prop :=
  Ret.SameIn .decodeSide u (CursorMoved s)

section
variable {s t : State} (u : State) (h : CursorMoved s t)
include h

theorem requireBits_alike (need : Nat) :
    Ret.DecodeAlike s u (requireBits need t) (requireBits need (BlockUnit.decodeSide.graft u t)) :=
  .ite (.raised _ _ h) (.ok _ h)

theorem readField_alike (w : Nat) :
    Ret.DecodeAlike s u (readField w t) (readField w (BlockUnit.decodeSide.graft u t)) :=
  (requireBits_alike u h w).andThen fun _ _ h => .ok _ (h.setDcur _)

theorem readUnsigned_alike (w : Nat) :
    Ret.DecodeAlike s u (readUnsigned w t) (readUnsigned w (BlockUnit.decodeSide.graft u t)) :=
  (readField_alike u h w).andThen fun _ _ h => .ok _ h

theorem readSigned_alike (w : Nat) :
    Ret.DecodeAlike s u (readSigned w t) (readSigned w (BlockUnit.decodeSide.graft u t)) :=
  (readField_alike u h w).andThen fun _ _ h => .ok _ h

theorem readWhole_alike (need : Nat) (out : List Bool → Nat → Results) :
    Ret.DecodeAlike s u (readWhole need out t) (readWhole need out (BlockUnit.decodeSide.graft u t)) :=
  (requireBits_alike u h need).andThen fun _ _ h => .ok _ (h.setDcur _)

theorem readOpaque_alike (endOff : Nat) :
    Ret.DecodeAlike s u (readOpaque endOff t) (readOpaque endOff (BlockUnit.decodeSide.graft u t)) :=
  .ite (.raised _ _ h) (.ite (.raised _ _ h) (.ite (.raised _ _ h) (.ok _ (h.setDcur _))))

theorem readCustom_alike (w endOff : Nat) :
    Ret.DecodeAlike s u (readCustom w endOff t) (readCustom w endOff (BlockUnit.decodeSide.graft u t)) :=
  (readField_alike u h 32).andThen fun _ _ h =>
  (readField_alike u h w).andThen fun _ _ h =>
  (readOpaque_alike u h endOff).andThen fun _ _ h => .ok _ h

theorem requireAt_alike (endOff : Nat) (status : Status) :
    Ret.DecodeAlike s u (requireAt endOff status t) (requireAt endOff status (BlockUnit.decodeSide.graft u t)) :=
  .ite (.raised _ _ h) (.ok _ h)

end

/-- R231 to R233: `D.MSGHDR` is local and moves the cursor only. -/
theorem execDMsghdr_local (exp : Nat) (s : State) : LocalTo .decodeSide (CursorMoved s) s (execDMsghdr exp) :=
  localTo_respond fun u _ =>
    have h := CursorMoved.refl s
    .ite (.raised _ _ h) <|
    (readField_alike u h 16).andThen fun _ _ h =>
    .ite (.raised _ _ (h.setDcur _)) <|
    (readField_alike u h 32).andThen fun _ _ h =>
    (readField_alike u h 32).andThen fun _ _ h =>
    .ite (.raised _ _ h) (.ite (.raised _ _ h) (.ok _ h))

/-- The layout of `D.PARHDR` is read from the configuration, which is the same in all surroundings (R9, R235). -/
theorem execDParhdr_local (s : State) : LocalTo .decodeSide (CursorMoved s) s execDParhdr :=
  localTo_respond fun u hu =>
    have h := CursorMoved.refl s
    .ite (.raised _ _ h) <|
    .ite
      ((readField_alike u h 8).andThen fun b t h => by
        rw [BlockUnit.graft_cfg, hu, ← h.cfg]
        dsimp only
        cases tvLenOf t.cfg (slice b 6 0) with
        | none => exact .raised _ _ h
        | some len => exact .ok _ h)
      ((readField_alike u h 16).andThen fun _ _ h =>
      (readField_alike u h 16).andThen fun _ _ h =>
      .ite (.raised _ _ h) (.ok _ h))

/-- R31, first row, R23: an operation of the decode side other than `D.LOAD` is local and moves the cursor only. -/
theorem exec_decodeSide_moves_cursor (i : Instr) (hi : unitOf i = .decodeSide) (hload : ∀ bytes, i ≠ .dLoad bytes)
    (s : State) : LocalTo .decodeSide (CursorMoved s) s (exec i) := by
  have h := CursorMoved.refl s
  cases i with
  | dLoad bytes => exact absurd rfl (hload bytes)
  | dSeek off => exact localTo_respond fun _ _ => .ite (.raised _ _ h) (.ok _ (h.setDcur off))
  | dTell => exact localTo_respond (f := fun t => .ok (.cursor t.dcur t.dlen) t) fun _ _ => .ok _ h
  | dBool => exact localTo_respond fun u _ => readUnsigned_alike u h 1
  | dU8 => exact localTo_respond fun u _ => readUnsigned_alike u h 8
  | dU16 => exact localTo_respond fun u _ => readUnsigned_alike u h 16
  | dS16 => exact localTo_respond fun u _ => readSigned_alike u h 16
  | dU32 => exact localTo_respond fun u _ => readUnsigned_alike u h 32
  | dS32 => exact localTo_respond fun u _ => readSigned_alike u h 32
  | dU64 => exact localTo_respond fun u _ => readUnsigned_alike u h 64
  | dS64 => exact localTo_respond fun u _ => readSigned_alike u h 64
  | dBits w => exact localTo_respond fun u _ => .ite (.raised _ _ h) (readUnsigned_alike u h w)
  | dArr8 n => exact localTo_respond fun u _ => readWhole_alike u h (8 * n) _
  | dArr16 n => exact localTo_respond fun u _ => readWhole_alike u h (16 * n) _
  | dStr n => exact localTo_respond fun u _ => readWhole_alike u h (8 * n) _
  | dBitv n => exact localTo_respond fun u _ => readWhole_alike u h (ceil8 n) _
  | dOpaque endOff =>
    exact localTo_respond fun u _ => (readOpaque_alike u h endOff).andThen fun _ _ h => .ok _ h
  | dMsghdr exp => exact execDMsghdr_local exp s
  | dMsgend endOff => exact localTo_respond fun u _ => requireAt_alike u h endOff .malformedMessage
  | dParhdr => exact execDParhdr_local s
  | dParend endOff => exact localTo_respond fun u _ => requireAt_alike u h endOff .malformedParameter
  | dCustmsg endOff => exact localTo_respond fun u _ => readCustom_alike u h 8 endOff
  | dCustpar endOff => exact localTo_respond fun u _ => readCustom_alike u h 32 endOff
  | _ => cases hi

/-- R132: `D.LOAD` compares with the capacity, which is the same in all surroundings (R11). -/
theorem execDLoad_local (bytes : List Byte) (s : State) : LocalTo .decodeSide (fun _ => True) s (execDLoad bytes) :=
  localTo_respond fun u hu => by
    rw [BlockUnit.graft_cfg, hu]
    exact .ite (.raised _ _ trivial) (.ok _ trivial)

theorem exec_decodeSide_local (i : Instr) (hi : unitOf i = .decodeSide) (s : State) :
    LocalTo .decodeSide (fun _ => True) s (exec i) := by
  by_cases hload : ∃ bytes, i = .dLoad bytes
  · obtain ⟨bytes, rfl⟩ := hload
    exact execDLoad_local bytes s
  · exact (exec_decodeSide_moves_cursor i hi (not_exists.mp hload) s).mono fun _ _ => trivial

/-! ## Encode side -/

/-- The configuration is that of `s`. -/
abbrev SameConfig (s t : State) : Prop :=
  t.cfg = s.cfg

/-- Two runs of a part of an encode operation that began in `s` and in its part grafted onto `u`. -/
abbrev Ret.EncodeAlike (s u : State) {α : Type} : Ret α → Ret α → Prop :=
  Ret.SameIn .encodeSide u (SameConfig s)

section
variable {s t u : State} (hu : u.cfg = s.cfg) (h : SameConfig s t)
include h

theorem requireFit_alike (operands : List (Nat × Nat)) :
    Ret.EncodeAlike s u (requireFit operands t) (requireFit operands (BlockUnit.encodeSide.graft u t)) := by
  unfold requireFit
  cases firstMisfit operands with
  | some v => exact .raised _ _ h
  | none => exact .ok _ h

theorem patchLength_alike (hdrBits w greatest start : Nat) :
    Ret.EncodeAlike s u (patchLength hdrBits w greatest start t)
      (patchLength hdrBits w greatest start (BlockUnit.encodeSide.graft u t)) :=
  .ite (.raised _ _ h) (.ite (.raised _ _ h) (.ite (.raised _ _ h) (.ok _ h)))

include hu

theorem appendBits_alike (bits : List Bool) :
    Ret.EncodeAlike s u (appendBits bits t) (appendBits bits (BlockUnit.encodeSide.graft u t)) := by
  unfold appendBits
  rw [BlockUnit.graft_cfg, hu, ← h]
  exact .ite (.raised _ _ h) (.ok _ h)

theorem appendHeader_alike (bits : List Bool) :
    Ret.EncodeAlike s u (appendHeader bits t) (appendHeader bits (BlockUnit.encodeSide.graft u t)) :=
  (appendBits_alike hu h bits).andThen fun _ _ h => .ok _ h

end

/-- R31, second row: an operation of the encode side is local. -/
theorem exec_encodeSide_local (i : Instr) (hi : unitOf i = .encodeSide) (s : State) :
    LocalTo .encodeSide (SameConfig s) s (exec i) := by
  have h : SameConfig s s := rfl
  cases i with
  | eNew => exact localTo_respond (f := fun t => .ok .absent (t.setEbits [])) fun _ _ => .ok _ h
  | eTell => exact localTo_respond (f := fun t => .ok (.len t.elen) t) fun _ _ => .ok _ h
  | eRead => exact localTo_respond fun _ _ => .ite (.raised _ _ h) (.ok _ h)
  | eBool val => exact localTo_respond fun _ hu => appendBits_alike hu h _
  | eU8 val => exact localTo_respond fun _ hu => appendBits_alike hu h _
  | eU16 val => exact localTo_respond fun _ hu => appendBits_alike hu h _
  | eS16 val => exact localTo_respond fun _ hu => appendBits_alike hu h _
  | eU32 val => exact localTo_respond fun _ hu => appendBits_alike hu h _
  | eS32 val => exact localTo_respond fun _ hu => appendBits_alike hu h _
  | eU64 val => exact localTo_respond fun _ hu => appendBits_alike hu h _
  | eS64 val => exact localTo_respond fun _ hu => appendBits_alike hu h _
  | eBits w val => exact localTo_respond fun _ hu => .ite (.raised _ _ h) (appendBits_alike hu h _)
  | eArr8 bytes => exact localTo_respond fun _ hu => appendBits_alike hu h _
  | eArr16 words => exact localTo_respond fun _ hu => appendBits_alike hu h _
  | eStr bytes => exact localTo_respond fun _ hu => appendBits_alike hu h _
  | eBitv bits => exact localTo_respond fun _ hu => appendBits_alike hu h _
  | eMsghdr ver type id =>
    exact localTo_respond fun _ hu => (requireFit_alike h _).andThen fun _ _ h => appendHeader_alike hu h _
  | eMsglen start => exact localTo_respond fun _ _ => patchLength_alike h 80 32 (2 ^ 32 - 1) start
  | eTvhdr type =>
    exact localTo_respond fun _ hu => (requireFit_alike h _).andThen fun _ _ h => appendBits_alike hu h _
  | eTlvhdr type =>
    exact localTo_respond fun _ hu => (requireFit_alike h _).andThen fun _ _ h => appendHeader_alike hu h _
  | eTlvlen start => exact localTo_respond fun _ _ => patchLength_alike h 32 16 65535 start
  | eCustmsg vendor subtype bytes =>
    exact localTo_respond fun _ hu => (requireFit_alike h _).andThen fun _ _ h => appendBits_alike hu h _
  | eCustpar vendor subtype bytes =>
    exact localTo_respond fun _ hu => (requireFit_alike h _).andThen fun _ _ h => appendBits_alike hu h _
  | _ => cases hi

/-! ## Reassembler -/

/-- The same intake in the surroundings `u`: the reassembler's part grafted onto `u`, the events at the end of its
`rout` (R29). -/
def Feed.onto (q : Feed) (u : State) : Feed :=
  { q with state := { BlockUnit.reassembler.graft u q.state with rout := u.rout ++ q.events } }

section
variable {s u : State} (hu : u.cfg = s.cfg)
include hu

theorem finishHeader_graft (hdr : Vector Byte 10) :
    finishHeader hdr (BlockUnit.reassembler.graft u s) = (finishHeader hdr s).onto u := by
  unfold finishHeader
  rw [BlockUnit.graft_cfg, hu]
  cases validate s.cfg (parseHeader hdr.toList) with
  | some c => rfl
  | none =>
    by_cases hl : (parseHeader hdr.toList).length = 10
    · simp only [hl, if_true]; rfl
    · simp only [hl, if_false, Feed.onto, List.append_nil]; rfl

theorem feedByte_graft (b : Byte) :
    feedByte b (BlockUnit.reassembler.graft u s) = (feedByte b s).onto u := by
  have hstate : (BlockUnit.reassembler.graft u s).rstate = s.rstate := rfl
  unfold feedByte
  rw [hstate]
  cases s.rstate with
  | closed => simp only [Feed.onto, List.append_nil]; rfl
  | awaitingHeader =>
    have hcnt : (BlockUnit.reassembler.graft u s).hcnt = s.hcnt := rfl
    simp only [feedHeader, hcnt]
    by_cases h : s.hcnt + 1 = 10
    · simp only [h, if_true]; exact finishHeader_graft hu _
    · simp only [h, if_false, Feed.onto, List.append_nil]; rfl
  | awaitingBody =>
    have hcnt : (BlockUnit.reassembler.graft u s).mcnt = s.mcnt := rfl
    have hlen : (BlockUnit.reassembler.graft u s).mlen = s.mlen := rfl
    simp only [feedBody, hcnt, hlen]
    by_cases h : s.mcnt + 1 = s.mlen
    · simp only [h, if_true]; rfl
    · simp only [h, if_false, Feed.onto, List.append_nil]; rfl

end

theorem feedByte_cfg (b : Byte) (s : State) : (feedByte b s).state.cfg = s.cfg := by
  rw [feedByte_frame]

/-- R299: byte by byte, the surroundings taking the events of each byte before the next. -/
theorem feedAll_graft (bytes : List Byte) {s u : State} (hu : u.cfg = s.cfg) :
    feedAll bytes (BlockUnit.reassembler.graft u s) = (feedAll bytes s).onto u := by
  induction bytes generalizing s u with
  | nil => simp only [feedAll_nil, Feed.onto, List.append_nil]; rfl
  | cons b rest ih =>
    have hrest := ih (s := (feedByte b s).state) (u := { u with rout := u.rout ++ (feedByte b s).events })
      (hu.trans (feedByte_cfg b s).symm)
    simp only [feedAll, feedByte_graft hu]
    by_cases h : (feedByte b s).status = .framingFault
    · simp only [Feed.onto, h, if_true]
    · have hstate : ((feedByte b s).onto u).state =
          BlockUnit.reassembler.graft { u with rout := u.rout ++ (feedByte b s).events } (feedByte b s).state := rfl
      rw [hstate, hrest]
      simp only [Feed.onto, h, if_false, List.append_assoc]
      rfl

theorem feedChunk_graft (bytes : List Byte) {s u : State} (hu : u.cfg = s.cfg) :
    feedChunk bytes (BlockUnit.reassembler.graft u s) = (feedChunk bytes s).onto u := by
  have hstate : (BlockUnit.reassembler.graft u s).rstate = s.rstate := rfl
  unfold feedChunk
  rw [hstate]
  by_cases h : s.rstate = .closed
  · simp only [h, if_true, Feed.onto, List.append_nil]; rfl
  · simp only [h, if_false]; exact feedAll_graft bytes hu

/-- The effect of an intake that ends as `q` does. -/
def Feed.effect (q : Feed) : Effect :=
  ⟨q.state, q.events, ⟨q.status, q.info, if q.status = .closed then .absent else .events q.events⟩⟩

/-- An intake that goes the same way in all surroundings is local. -/
theorem localTo_feed {s : State} {f : State → Feed}
    (h : ∀ u, u.cfg = s.cfg → f (BlockUnit.reassembler.graft u s) = (f s).onto u) :
    LocalTo .reassembler (fun _ => True) s fun t => (f t).respond :=
  ⟨(f s).effect, trivial, fun hne => absurd rfl hne, fun u hu => by simp only [h u hu]; rfl⟩

/-- R31, third row: an operation of the reassembler is local, and a wire layout with it (log entry 1). -/
theorem exec_reassembler_local (i : Instr) (hi : unitOf i = .reassembler) (s : State) :
    LocalTo .reassembler (fun _ => True) s (exec i) := by
  cases i with
  | rOpen =>
    exact localTo_respond (f := fun t => .ok .absent (t.clearReassembler .awaitingHeader)) fun _ _ => .ok _ trivial
  | rFeed b => exact localTo_feed fun _ hu => feedByte_graft hu b
  | rFeedn bytes => exact localTo_feed fun _ hu => feedChunk_graft bytes hu
  | rClose => exact localTo_respond (f := fun t => .ok .absent (t.clearReassembler .closed)) fun _ _ => .ok _ trivial
  | rStat =>
    exact localTo_respond (f := fun t => .ok (.stat t.rstate t.hcnt t.mlen t.mcnt) t) fun _ _ => .ok _ trivial
  | msghdr reserved ver type length id => exact localTo_feed fun _ hu => feedChunk_graft _ hu
  | tvhdr type => exact localTo_feed fun _ hu => feedChunk_graft _ hu
  | tlvhdr reserved type length => exact localTo_feed fun _ hu => feedChunk_graft _ hu
  | custmsgBody vendor subtype tail => exact localTo_feed fun _ hu => feedChunk_graft _ hu
  | custparBody vendor subtype tail => exact localTo_feed fun _ hu => feedChunk_graft _ hu
  | _ => cases hi

/-! ## Every operation -/

/-- R31: every operation is local to its unit. -/
theorem exec_local (i : Instr) (s : State) : LocalTo (unitOf i) (fun _ => True) s (exec i) := by
  cases hi : unitOf i with
  | whole =>
    cases i with
    | reset =>
      exact localTo_respond
        (f := fun t => .ok .absent (((t.setDbuf [] 0).setEbits []).clearReassembler .awaitingHeader))
        fun _ _ => .ok _ trivial
    | _ => cases hi
  | decodeSide => exact exec_decodeSide_local i hi s
  | encodeSide => exact (exec_encodeSide_local i hi s).mono fun _ _ => trivial
  | reassembler => exact exec_reassembler_local i hi s

/-- R31: the effect an operation has in `s`, it has in every state `u` with the configuration and the unit's part
of `s`. -/
theorem exec_effect (i : Instr) (s : State) :
    ∃ e : Effect, (unitOf i ≠ .reassembler → e.events = []) ∧
      ∀ u, u.cfg = s.cfg → (unitOf i).graft u s = u → exec i u = .next (e.on (unitOf i) u) := by
  obtain ⟨e, _, hsilent, hexec⟩ := exec_local i s
  refine ⟨e, hsilent, fun u hu hpart => ?_⟩
  rw [← hexec u hu, hpart]

/-- R23: `DBUF`'s bits change only by `D.LOAD`. -/
theorem exec_decodeSide_dbits {i : Instr} (hi : unitOf i = .decodeSide) (hload : ∀ bytes, i ≠ .dLoad bytes)
    {s t : State} (ht : exec i s = .next t) : t.dbits = s.dbits := by
  obtain ⟨e, hmoved, _, hexec⟩ := exec_decodeSide_moves_cursor i hi hload s
  have heq := hexec s rfl
  rw [BlockUnit.graft_self, ht, Host.Outcome.next.injEq] at heq
  rw [heq]
  exact hmoved.dbits

/-- Settles O57, from the effect of the operation on its own unit's part (R31, R23, R25, R30). -/
theorem operationsChangeOnlyTheirUnit : Obligations.OperationsChangeOnlyTheirUnit := by
  intro i s t ht
  obtain ⟨e, hsilent, hexec⟩ := exec_effect i s
  have heq : t = e.on (unitOf i) s := by
    simpa [ht] using hexec s rfl (BlockUnit.graft_self _ s)
  have heq_silent (hi : unitOf i ≠ .reassembler) : t = ((unitOf i).graft s e.after).setResp e.response := by
    rw [heq, Effect.on_silent (hsilent hi)]
  refine ⟨fun hi => ?_, fun hi hload => exec_decodeSide_dbits hi hload ht, fun hi => ?_, fun hi => ?_, fun hi => ?_⟩
  · rw [heq_silent (by simp [hi]), hi]; rfl
  · rw [heq_silent (by simp [hi]), hi]; rfl
  · rw [heq, hi]; rfl
  · rw [heq_silent (by simp [hi]), hi]; rfl

section
variable {U V : BlockUnit} (hne : U ≠ V) (hU : U ≠ .whole) (hV : V ≠ .whole)
include hne hU hV

/-- The three groups of state are disjoint (R31). -/
theorem BlockUnit.graft_comm (s a b : State) : V.graft (U.graft s a) b = U.graft (V.graft s b) a := by
  cases U <;> cases V <;> try contradiction
  all_goals rfl

/-- What an operation of one unit does leaves the part of another unit as it was. -/
theorem BlockUnit.graft_on_of_ne (e : Effect) (s : State) : V.graft (e.on U s) s = e.on U s := by
  cases U <;> cases V <;> try contradiction
  all_goals rfl

end

theorem Effect.on_on (e d : Effect) (U V : BlockUnit) (s : State) :
    d.on V (e.on U s) =
      { V.graft (U.graft s e.after) d.after with
        rout := (s.rout ++ e.events) ++ d.events, resp := some d.response } := by
  cases V <;> rfl

/-- Effects on the parts of two different units can be taken in either order, but for the last response, where at most
one of them puts events out (R31). -/
theorem Effect.on_comm {U V : BlockUnit} (hne : U ≠ V) (hU : U ≠ .whole) (hV : V ≠ .whole) {e d : Effect}
    (hevents : e.events = [] ∨ d.events = []) (s : State) :
    { d.on V (e.on U s) with resp := none } = { e.on U (d.on V s) with resp := none } := by
  have hrout : (s.rout ++ e.events) ++ d.events = (s.rout ++ d.events) ++ e.events := by
    rcases hevents with h | h <;> simp [h]
  rw [Effect.on_on, Effect.on_on, BlockUnit.graft_comm hne hU hV, hrout]

/-- Settles O58, from the effects of the two operations: each has in the state that the other leaves the effect it has
in `s` (R31, last sentence). -/
theorem operationsOfDifferentUnitsCommute : Obligations.OperationsOfDifferentUnitsCommute := by
  intro i j s hne hi hj
  obtain ⟨e, hsilent, he⟩ := exec_effect i s
  obtain ⟨d, hsilent', hd⟩ := exec_effect j s
  have hevents : e.events = [] ∨ d.events = [] := by
    by_cases h : unitOf i = .reassembler
    · exact .inr (hsilent' fun h' => hne (h.trans h'.symm))
    · exact .inl (hsilent h)
  have hi_first := he s rfl (BlockUnit.graft_self _ s)
  have hj_first := hd s rfl (BlockUnit.graft_self _ s)
  have hj_second := hd (e.on (unitOf i) s) (e.on_cfg _ s) (BlockUnit.graft_on_of_ne hne hi hj e s)
  have hi_second := he (d.on (unitOf j) s) (d.on_cfg _ s) (BlockUnit.graft_on_of_ne hne.symm hj hi d s)
  exact ⟨_, _, _, _, hi_first, hj_second, hj_first, hi_second, rfl, rfl, Effect.on_comm hne hi hj hevents s⟩

/-- Settles O60: the last response and the events put out before are no part of any unit (R21, R29). -/
theorem responsesAndEventsAreNotRead : Obligations.ResponsesAndEventsAreNotRead := by
  intro i s resp before
  obtain ⟨e, _, hexec⟩ := exec_effect i s
  have hpart : (unitOf i).graft { s with resp := resp, rout := before } s =
      { s with resp := resp, rout := before } := by
    cases unitOf i <;> rfl
  refine ⟨e.on (unitOf i) s, e.on (unitOf i) { s with resp := resp, rout := before }, e.events,
    hexec s rfl (BlockUnit.graft_self _ s), hexec _ rfl hpart, rfl, rfl, ?_⟩
  cases unitOf i <;> rfl

/-- Settles O5: the reset state field by field, and the state that `RESET` answers (R34, R130). -/
theorem resetLeavesTheResetState : Obligations.ResetLeavesTheResetState :=
  ⟨⟨rfl, rfl, rfl, rfl, rfl, rfl, rfl, rfl, rfl, rfl, rfl⟩, fun s =>
    ⟨(((s.setDbuf [] 0).setEbits []).clearReassembler .awaitingHeader).setResp ⟨.ok, 0, .absent⟩, rfl, rfl⟩⟩

end Sys2Proof.Machine
end

section
/-! PROOFS. 20_memory.md section 2 (R64), from `MemRead` and `MemWrite` of 00_scope.md section 6 (R15): a field is its
parts side by side, so a narrower read is a slice of a wider one. -/

namespace Sys2Proof.Machine

/-- R64: a field of `a + b` bits is the field of its first `a` bits followed by the field of the other `b`. -/
theorem memRead_add (bits : List Bool) (off a b : Nat) (h : off + a + b ≤ bits.length) :
    memRead bits off (a + b) = memRead bits off a * 2 ^ b + memRead bits (off + a) b := by
  have hb : ((bits.drop (off + a)).take b).length = b :=
    List.length_take_of_le (by rw [List.length_drop]; omega)
  rw [memRead, List.take_add, bitsToNat_append, List.drop_drop, hb, memRead, memRead]

/-- R64: the `m` bits that stand `o` bits into a field are a slice of the field's value. -/
theorem memRead_inside (bits : List Bool) (off n o m : Nat) (h : off + n ≤ bits.length) (hm : o + m ≤ n) :
    memRead bits (off + o) m = memRead bits off n / 2 ^ (n - o - m) % 2 ^ m := by
  obtain ⟨r, rfl⟩ : ∃ r, n = o + m + r := ⟨n - (o + m), by omega⟩
  have hr : o + m + r - o - m = r := by omega
  rw [hr, memRead_add bits off (o + m) r (by omega), memRead_add bits off o m (by omega), Nat.mul_comm,
    Nat.mul_add_div (by positivity), Nat.div_eq_of_lt (memRead_lt _ _ r), Nat.add_zero, Nat.mul_comm,
    Nat.mul_add_mod, Nat.mod_eq_of_lt (memRead_lt _ _ m)]

/-- R15: the field just written reads as the low `n` bits of the value. -/
theorem memRead_memWrite (bits : List Bool) (off n v : Nat) (h : off + n ≤ bits.length) :
    memRead (memWrite bits off n v) off n = v % 2 ^ n := by
  have hmid := memRead_middle (bits.take off) (natToBits n v) (bits.drop (off + n))
  rwa [List.length_take_of_le (by omega), length_natToBits, bitsToNat_natToBits] at hmid

/-- Settles O11: reads join by `memRead_add`, and a read inside a written field is a slice of the field's value. -/
theorem mixedWidthReadsAgree : Obligations.MixedWidthReadsAgree := by
  refine ⟨memRead_add, fun bits off n v o m h hm => ?_⟩
  have hslice : v % 2 ^ n / 2 ^ (n - o - m) % 2 ^ m = v / 2 ^ (n - o - m) % 2 ^ m := by
    obtain ⟨r, rfl⟩ : ∃ r, n = r + (m + o) := ⟨n - (o + m), by omega⟩
    have hr : r + (m + o) - o - m = r := by omega
    rw [hr, pow_add, Nat.mod_mul_right_div_self, pow_add, Nat.mod_mul_right_mod]
  calc memRead (memWrite bits off n v) (off + o) m
      = memRead (memWrite bits off n v) off n / 2 ^ (n - o - m) % 2 ^ m :=
        memRead_inside _ off n o m (by rwa [length_memWrite bits off n v h]) hm
    _ = v % 2 ^ n / 2 ^ (n - o - m) % 2 ^ m := by rw [memRead_memWrite bits off n v h]
    _ = v / 2 ^ (n - o - m) % 2 ^ m := hslice

end Sys2Proof.Machine
end

section
/-! PROOFS. 20_memory.md section 6 (R73) and 60_exceptions.md section 6 (R357): what a step takes from the host. -/

namespace Sys2Proof.Machine

theorem fetchItem_of_idle {s : State} (h : s.pending = []) : fetchItem s = none := by
  rw [fetchItem, h]

theorem fetchItem_of_issued {s : State} {item : Item} {rest : List Item} (h : s.pending = item :: rest) :
    fetchItem s = some (item, rest) := by
  rw [fetchItem, h]

/-- R73: the first item issued is taken and run; those after it are still to be issued. -/
theorem step_of_decode_ok {s : State} {item : Item} {rest : List Item} {i : Instr} (h : s.pending = item :: rest)
    (hi : decode item = .ok i) : step s = exec i (s.setPending rest) := by
  simp only [step, fetchItem_of_issued h, hi]

/-- R357: the idle block holds its state. -/
theorem step_of_idle {s : State} (h : s.pending = []) : step s = .next s := by
  simp only [step, fetchItem_of_idle h]

/-- Settles O1: one clause for what is issued, one for the idle block. -/
theorem stepRunsDecodedInstruction : Obligations.StepRunsDecodedInstruction :=
  ⟨fun _ _ _ _ h hi => step_of_decode_ok h hi, fun _ h => step_of_idle h⟩

end Sys2Proof.Machine
end

section
/-! PROOFS. 30_encoding.md: the operation codes of R101 and the wire layouts of R90 to R94, decoded and encoded. -/

namespace Sys2Proof

/-! ## Decoding what was encoded -/

theorem decode_encode_msghdr (reserved ver : BitVec 3) (type : BitVec 10) (length id : BitVec 32) :
    decode (encode (.msghdr reserved ver type length id)) = .ok (.msghdr reserved ver type length id) := by
  apply decode_of_wire
  have hreserved := reserved.isLt
  have hver := ver.isLt
  have htype := type.isLt
  have hlength := length.isLt
  have hid := id.isLt
  generalize hw : reserved.toNat * 2 ^ 77 + ver.toNat * 2 ^ 74 + type.toNat * 2 ^ 64 + length.toNat * 2 ^ 32 +
    id.toNat = w
  rw [decodeWire_msghdr w (by omega), field_eq reserved _ (by omega), field_eq ver _ (by omega),
    field_eq type _ (by omega), field_eq length _ (by omega), field_eq id _ (by omega)]

theorem decode_encode_tvhdr (type : BitVec 7) : decode (encode (.tvhdr type)) = .ok (.tvhdr type) := by
  apply decode_of_wire
  have htype := type.isLt
  generalize hw : 2 ^ 7 + type.toNat = w
  rw [decodeWire_tvhdr w (by omega) (by omega), field_eq type _ (by omega)]

theorem decode_encode_tlvhdr (reserved : BitVec 5) (type : BitVec 10) (length : BitVec 16) :
    decode (encode (.tlvhdr reserved type length)) = .ok (.tlvhdr reserved type length) := by
  apply decode_of_wire
  have hreserved := reserved.isLt
  have htype := type.isLt
  have hlength := length.isLt
  generalize hw : reserved.toNat * 2 ^ 26 + type.toNat * 2 ^ 16 + length.toNat = w
  rw [decodeWire_tlvhdr w (by omega) (by omega), field_eq reserved _ (by omega), field_eq type _ (by omega),
    field_eq length _ (by omega)]

theorem decode_encode_custmsgBody (vendor : BitVec 32) (subtype : BitVec 8) (tail : List Byte) :
    decode (encode (.custmsgBody vendor subtype tail)) = .ok (.custmsgBody vendor subtype tail) := by
  apply decode_of_wire
  have hvendor := vendor.isLt
  have hsubtype := subtype.isLt
  generalize hw : vendor.toNat * 2 ^ 8 + subtype.toNat = w
  rw [decodeWire_custmsgBody w tail (by omega), field_eq vendor _ (by omega), field_eq subtype _ (by omega)]

theorem decode_encode_custparBody (vendor subtype : BitVec 32) (tail : List Byte) :
    decode (encode (.custparBody vendor subtype tail)) = .ok (.custparBody vendor subtype tail) := by
  apply decode_of_wire
  have hvendor := vendor.isLt
  have hsubtype := subtype.isLt
  generalize hw : vendor.toNat * 2 ^ 32 + subtype.toNat = w
  rw [decodeWire_custparBody w tail (by omega), field_eq vendor _ (by omega), field_eq subtype _ (by omega)]

/-- R101 and R90 to R94: a command is decoded by its code alone, a layout by the arithmetic of its fields. -/
theorem decode_encode (i : Instr) : decode (encode i) = .ok i := by
  cases i with
  | msghdr reserved ver type length id => exact decode_encode_msghdr reserved ver type length id
  | tvhdr type => exact decode_encode_tvhdr type
  | tlvhdr reserved type length => exact decode_encode_tlvhdr reserved type length
  | custmsgBody vendor subtype tail => exact decode_encode_custmsgBody vendor subtype tail
  | custparBody vendor subtype tail => exact decode_encode_custparBody vendor subtype tail
  | _ => rfl

/-! ## Encoding what was decoded -/

/-- The bits of the wire are those of a layout: a width of R90 to R94 that the number fits, the selector bit of R91
and R92, and opaque bytes only after a custom body. -/
inductive IsLayout : Nat → Nat → List Byte → Prop where
  | msghdr {w : Nat} (h : w < 2 ^ 80) : IsLayout 80 w []
  | tvhdr {w : Nat} (h : w < 2 ^ 8) (hsel : w / 2 ^ 7 = 1) : IsLayout 8 w []
  | tlvhdr {w : Nat} (h : w < 2 ^ 32) (hsel : w / 2 ^ 31 = 0) : IsLayout 32 w []
  | custmsgBody {w : Nat} (tail : List Byte) (h : w < 2 ^ 40) : IsLayout 40 w tail
  | custparBody {w : Nat} (tail : List Byte) (h : w < 2 ^ 64) : IsLayout 64 w tail

theorem isLayout_of_decodeWire {nbits w : Nat} {tail : List Byte} {i : Instr} (h : decodeWire nbits w tail = some i) :
    IsLayout nbits w tail := by
  unfold decodeWire at h
  split at h
  case isTrue => cases h
  case isFalse hfits =>
    rw [Nat.not_le] at hfits
    split_ifs at h with hmsg htv htlv hcustmsg hcustpar
    · obtain ⟨rfl, rfl⟩ := hmsg; exact .msghdr hfits
    · obtain ⟨rfl, rfl, hsel⟩ := htv; exact .tvhdr hfits hsel
    · obtain ⟨rfl, rfl, hsel⟩ := htlv; exact .tlvhdr hfits hsel
    · subst hcustmsg; exact .custmsgBody tail hfits
    · subst hcustpar; exact .custparBody tail hfits

theorem decodeWire_of_decode {nbits w : Nat} {tail : List Byte} {i : Instr}
    (h : decode (.wire nbits w tail) = .ok i) : decodeWire nbits w tail = some i := by
  rw [decode] at h
  cases hd : decodeWire nbits w tail with
  | none => rw [hd] at h; cases h
  | some j => rw [hd] at h; cases h; rfl

/-- R90 to R94: the fields of a layout together hold each of its bits. -/
theorem encode_of_isLayout {nbits w : Nat} {tail : List Byte} {i : Instr} (hl : IsLayout nbits w tail)
    (h : decodeWire nbits w tail = some i) : encode i = .wire nbits w tail := by
  cases hl with
  | msghdr hw =>
    cases (decodeWire_msghdr w hw).symm.trans h
    exact congrArg (Item.wire 80 · []) (by simp only [BitVec.toNat_ofNat]; omega)
  | tvhdr hw hsel =>
    cases (decodeWire_tvhdr w hw hsel).symm.trans h
    exact congrArg (Item.wire 8 · []) (by simp only [BitVec.toNat_ofNat]; omega)
  | tlvhdr hw hsel =>
    cases (decodeWire_tlvhdr w hw hsel).symm.trans h
    exact congrArg (Item.wire 32 · []) (by simp only [BitVec.toNat_ofNat]; omega)
  | custmsgBody _ hw =>
    cases (decodeWire_custmsgBody w tail hw).symm.trans h
    exact congrArg (Item.wire 40 · tail) (by simp only [BitVec.toNat_ofNat]; omega)
  | custparBody _ hw =>
    cases (decodeWire_custparBody w tail hw).symm.trans h
    exact congrArg (Item.wire 64 · tail) (by simp only [BitVec.toNat_ofNat]; omega)

/-- Settles O3: the constructors one by one, and the layouts that the wire part of the decoder accepts. -/
theorem decodeAndEncodeAgree : Obligations.DecodeAndEncodeAgree := by
  refine ⟨decode_encode, fun nbits w tail i h => ?_⟩
  have hd := decodeWire_of_decode h
  exact encode_of_isLayout (isLayout_of_decodeWire hd) hd

/-! ## Words of the encoding tables -/

/-- Settles O4: each word evaluated. -/
theorem tableWordsDecode : Obligations.TableWordsDecode :=
  ⟨rfl, rfl, rfl, rfl, rfl, rfl, rfl, rfl, rfl, rfl, rfl, rfl, rfl, rfl, rfl, rfl⟩

end Sys2Proof
end

section
/-! PROOFS. 30_encoding.md R103 and R104: what is no operation of R101, or has an operand outside its range, is
`BadOperand`. -/

namespace Sys2Proof.Machine

/-- R103: the code is in the error, whatever stands beside it. -/
theorem decode_command_of_unassigned {op : BitVec 8} (o : Operands) (h : decodeOp op o = none) :
    decode (.command op o) = .error (.illegalOp op) := by
  rw [decode, h]

theorem step_of_decode_error {s : State} {item : Item} {rest : List Item} {e : DecodeError}
    (h : s.pending = item :: rest) (he : decode item = .error e) : step s = rejectItem e (s.setPending rest) := by
  simp only [step, fetchItem_of_issued h, he]

/-- R101: the codes that are assigned. -/
theorem mem_codes_of_decodeOp {op : BitVec 8} {o : Operands} {i : Instr} (h : decodeOp op o = some i) :
    op.toNat ∈ [0x00, 0x01, 0x02, 0x03, 0x04, 0x05, 0x06, 0x10, 0x11, 0x12, 0x13, 0x14, 0x15, 0x16, 0x17, 0x18, 0x20,
      0x21, 0x22, 0x23, 0x24, 0x25, 0x26, 0x27, 0x28, 0x30, 0x31, 0x32, 0x33, 0x34, 0x40, 0x41, 0x42, 0x43, 0x50, 0x51,
      0x52, 0x53, 0x54, 0x55, 0x60, 0x61, 0x62, 0x63, 0x64, 0x65, 0x66, 0x70, 0x71, 0x72, 0x73, 0x74] := by
  unfold decodeOp at h
  split at h
  case h_53 => cases h
  all_goals rename_i hop; rw [hop]; decide

/-- R261, R266, R267, R271, R272: with an operand that does not fit, the operation ends before its body. -/
theorem respond_requireFit_of_misfit {operands : List (Nat × Nat)} (h : ¬ ∀ p ∈ operands, p.1 ≤ p.2) (s : State)
    (body : Unit → State → Ret Results) :
    ∃ v, ((requireFit operands s).andThen body).respond = .next { s with resp := failResp .badOperand v } := by
  rw [← firstMisfit_eq_none] at h
  obtain ⟨v, hv⟩ := Option.ne_none_iff_exists'.mp h
  exact ⟨v, by rw [requireFit, hv]; rfl⟩

/-- R160, R180: the width is checked first. -/
theorem respond_legalWidth_of_illegal {w : Nat} (h : ¬(1 ≤ w ∧ w ≤ 64)) (s : State) (body : Ret Results) :
    Ret.respond (if !legalWidth w then .raised .badOperand w s else body) =
      .next { s with resp := failResp .badOperand w } := by
  have hw : legalWidth w = false := by simpa [legalWidth] using h
  rw [hw]; rfl

/-- R104: the operands with a range are widths, an expected type, and the fields of what an encode operation writes. -/
theorem exec_of_illFormed (i : Instr) (s : State) (h : i.wellFormed = false) :
    ∃ v, exec i s = .next { s with resp := failResp .badOperand v } := by
  cases i with
  | dBits w => exact ⟨w, respond_legalWidth_of_illegal (by simpa [Instr.wellFormed] using h) s _⟩
  | eBits w val => exact ⟨w, respond_legalWidth_of_illegal (by simpa [Instr.wellFormed] using h) s _⟩
  | dMsghdr exp =>
    have hexp : 1023 < exp := by simpa [Instr.wellFormed] using h
    exact ⟨exp, by simp only [exec, execDMsghdr, if_pos hexp]; rfl⟩
  | eMsghdr ver type id => exact respond_requireFit_of_misfit (by simpa [Instr.wellFormed] using h) s _
  | eTvhdr type => exact respond_requireFit_of_misfit (by simpa [Instr.wellFormed] using h) s _
  | eTlvhdr type => exact respond_requireFit_of_misfit (by simpa [Instr.wellFormed] using h) s _
  | eCustmsg vendor subtype bytes => exact respond_requireFit_of_misfit (by simpa [Instr.wellFormed] using h) s _
  | eCustpar vendor subtype bytes => exact respond_requireFit_of_misfit (by simpa [Instr.wellFormed] using h) s _
  | _ => cases h

/-- Settles O2: unassigned codes, operands outside R104, and a seek past the end (R133). -/
theorem illegalOperationsAreBadOperand : Obligations.IllegalOperationsAreBadOperand := by
  refine ⟨fun s op o rest hs hop => ?_, exec_of_illFormed, fun off s hoff => ?_⟩
  · have hnone : decodeOp op o = none := Option.eq_none_iff_forall_ne_some.mpr fun i hi => hop (mem_codes_of_decodeOp hi)
    rw [step_of_decode_error hs (decode_command_of_unassigned o hnone)]
    rfl
  · simp only [exec, execDSeek, if_pos hoff]
    rfl

end Sys2Proof.Machine
end

section
/-! PROOFS. 00_scope.md section 6 (R15): what a read of a buffer depends on, its value as a sum, and bit strings of
whole bytes (R62). -/

namespace Sys2Proof.Machine

/-! ## What a read depends on -/

/-- Two buffers that agree on the offsets of a field hold the same bits there. -/
theorem take_drop_congr {a b : List Bool} {off n : Nat} (h : ∀ k, off ≤ k → k < off + n → a[k]? = b[k]?) :
    (a.drop off).take n = (b.drop off).take n := by
  refine List.ext_getElem? fun i => ?_
  by_cases hi : i < n
  · rw [List.getElem?_take_of_lt hi, List.getElem?_take_of_lt hi, List.getElem?_drop, List.getElem?_drop]
    exact h _ (by omega) (by omega)
  · rw [List.getElem?_take_eq_none (by omega), List.getElem?_take_eq_none (by omega)]

/-- A read depends on no bit outside its field. -/
theorem memRead_congr {a b : List Bool} {off n : Nat} (h : ∀ k, off ≤ k → k < off + n → a[k]? = b[k]?) :
    memRead a off n = memRead b off n := by
  rw [memRead, memRead, take_drop_congr h]

/-- A read of one bit. -/
theorem memRead_one (bits : List Bool) (off : Nat) (h : off < bits.length) : memRead bits off 1 = bitAt bits off := by
  rw [memRead, bitAt, List.drop_eq_getElem_cons h, List.getD_eq_getElem _ _ h, List.take_succ_cons, bitsToNat_cons]
  simp

/-! ## The value of a field as the sum of R15 -/

/-- R15: one more bit doubles the value and adds the bit. -/
theorem memValue_succ (bits : List Bool) (off n : Nat) :
    memValue bits off (n + 1) = memValue bits off n * 2 + bitAt bits (off + n) := by
  have hpow (i : Nat) (hi : i ∈ Finset.range n) :
      bitAt bits (off + i) * 2 ^ (n + 1 - 1 - i) = bitAt bits (off + i) * 2 ^ (n - 1 - i) * 2 := by
    have hexp : n + 1 - 1 - i = n - 1 - i + 1 := by
      have := Finset.mem_range.mp hi
      omega
    rw [hexp, pow_succ, Nat.mul_assoc]
  rw [memValue, Finset.sum_range_succ, Finset.sum_congr rfl hpow, ← Finset.sum_mul, memValue]
  simp

/-- R15, R150: inside the buffer the accumulator loop computes the sum. -/
theorem memRead_eq_memValue (bits : List Bool) (off n : Nat) (h : off + n ≤ bits.length) :
    memRead bits off n = memValue bits off n := by
  induction n with
  | zero => simp [memValue]
  | succ n ih =>
    rw [memRead_add bits off n 1 (by omega), ih (by omega), memRead_one _ _ (by omega), memValue_succ, pow_one]

/-- The first field of a bit string. -/
@[simp] theorem memValue_natToBits_append (n v : Nat) (r : List Bool) :
    memValue (natToBits n v ++ r) 0 n = v % 2 ^ n := by
  have hmid := memRead_middle [] (natToBits n v) r
  rw [length_natToBits, bitsToNat_natToBits] at hmid
  rw [← memRead_eq_memValue _ _ _ (by simp), ← hmid]
  rfl

@[simp] theorem memValue_natToBits (n v : Nat) : memValue (natToBits n v) 0 n = v % 2 ^ n := by
  simpa using memValue_natToBits_append n v []

/-- A field that comes after the first. -/
@[simp] theorem memValue_skip (m v : Nat) (r : List Bool) (off n : Nat) (h : m ≤ off) :
    memValue (natToBits m v ++ r) off n = memValue r (off - m) n := by
  refine Finset.sum_congr rfl fun i _ => ?_
  rw [bitAt, bitAt, List.getD_append_right _ _ _ _ (by rw [length_natToBits]; omega), length_natToBits,
    Nat.sub_add_comm h]

/-! ## Bit strings of whole bytes -/

theorem bytesToBits_cons (b : Byte) (l : List Byte) : bytesToBits (b :: l) = byteToBits b ++ bytesToBits l := rfl

theorem bytesToBits_append (l m : List Byte) : bytesToBits (l ++ m) = bytesToBits l ++ bytesToBits m :=
  List.flatMap_append

/-- Eight bits are the bits of the byte they are the value of. -/
theorem byteToBits_ofNat_bitsToNat (l : List Bool) (h : l.length = 8) :
    byteToBits (BitVec.ofNat 8 (bitsToNat l)) = l := by
  have hlt := bitsToNat_lt l
  have hbits := natToBits_bitsToNat l
  rw [h] at hlt hbits
  rw [byteToBits, BitVec.toNat_ofNat, Nat.mod_eq_of_lt hlt, hbits]

/-- The first byte of a bit string, and the bytes of the rest. -/
theorem bitsToBytes_append (l m : List Bool) (h : l.length = 8) :
    bitsToBytes (l ++ m) = BitVec.ofNat 8 (bitsToNat l) :: bitsToBytes m := by
  have hlen : (l ++ m).length / 8 = m.length / 8 + 1 := by
    rw [List.length_append]
    omega
  have hrest (k : Nat) : memRead (l ++ m) (8 * (k + 1)) 8 = memRead m (8 * k) 8 := by
    rw [← memRead_append_right l m (8 * k) 8, h, show 8 * (k + 1) = 8 + 8 * k by omega]
  have hfirst : memRead (l ++ m) 0 8 = bitsToNat l := by
    rw [← h]
    exact memRead_middle [] l m
  simp only [bitsToBytes, readBytes, hlen, List.range_succ_eq_map, List.map_cons, List.map_map, Function.comp_def,
    Nat.zero_add, Nat.succ_eq_add_one, hrest, Nat.mul_zero, hfirst]

/-- R62: bytes read back from their bits. -/
theorem bitsToBytes_bytesToBits (l : List Byte) : bitsToBytes (bytesToBits l) = l := by
  induction l with
  | nil => rfl
  | cons b l ih =>
    have hb : BitVec.ofNat 8 (bitsToNat (byteToBits b)) = b := BitVec.eq_of_toNat_eq (by simpa [byteToBits] using b.isLt)
    rw [bytesToBits_cons, bitsToBytes_append _ _ (length_byteToBits b), ih, hb]

/-- R62: a bit string of whole bytes is the bits of its bytes. -/
theorem bytesToBits_bitsToBytes (n : Nat) (bits : List Bool) (h : bits.length = 8 * n) :
    bytesToBits (bitsToBytes bits) = bits := by
  induction n generalizing bits with
  | zero => rw [List.eq_nil_of_length_eq_zero h]; rfl
  | succ n ih =>
    have hfirst : (bits.take 8).length = 8 := List.length_take_of_le (by omega)
    have hrest : (bits.drop 8).length = 8 * n := by
      rw [List.length_drop]
      omega
    rw [← List.take_append_drop 8 bits, bitsToBytes_append _ _ hfirst, bytesToBits_cons, ih _ hrest,
      byteToBits_ofNat_bitsToNat _ hfirst]

end Sys2Proof.Machine
end


section
/-! PROOFS. 30_encoding.md R90 to R94: a wire layout is the arrival of the bytes in which its fields stand (log entry 1),
from what an intake of bytes answers (47_reassembler.md R292, R299). -/

namespace Sys2Proof.Machine

/-! ## Intake -/

/-- R292: a byte fed to an open reassembler is taken, and leaves it open, or ends in a framing fault. -/
theorem feedByte_of_open (b : Byte) {s : State} (h : s.rstate ≠ .closed) :
    (feedByte b s).status = .framingFault ∨ (feedByte b s).status = .ok ∧ (feedByte b s).state.rstate ≠ .closed := by
  rcases feedByte_cases b s with ⟨hr, _⟩ | ⟨hr, _, e⟩ | ⟨hr, _, e⟩ | ⟨_, _, e⟩ | ⟨_, _, e⟩
  · exact absurd hr h
  · simp [e, hr]
  · rw [e]
    rcases finishHeader_cases (s.hdr.setIfInBounds s.hcnt b) s with ⟨c, _, e⟩ | ⟨_, _, e⟩ | ⟨_, _, e⟩ <;> simp [e, hr]
  · simp [e]
  · simp [e]

/-- R29, R299: what the loop puts out it also returns. -/
theorem feedAll_rout (bytes : List Byte) (s : State) :
    (feedAll bytes s).state.rout = s.rout ++ (feedAll bytes s).events := by
  induction bytes generalizing s with
  | nil => simp [feedAll_nil]
  | cons b rest ih =>
    rcases feedAll_cons b rest s with ⟨_, e⟩ | ⟨_, e⟩
    · rw [e, feedByte_rout]
    · simp [e, ih, feedByte_rout]

/-- R299: the loop never ends closed without a framing fault. -/
theorem feedAll_status_ne_closed (bytes : List Byte) {s : State} (h : s.rstate ≠ .closed) :
    (feedAll bytes s).status ≠ .closed := by
  induction bytes generalizing s with
  | nil => simp [feedAll_nil]
  | cons b rest ih =>
    rcases feedAll_cons b rest s with ⟨hf, e⟩ | ⟨hf, e⟩
    · simp [e, hf]
    · rcases feedByte_of_open b h with hf' | ⟨_, hopen⟩
      · exact absurd hf' hf
      · rw [e]; exact ih hopen

/-- R299, R330: an open reassembler puts out events and returns them in the response. -/
theorem exec_rFeedn_puts (bytes : List Byte) {s : State} (h : s.rstate ≠ .closed) :
    ∃ t evs, exec (.rFeedn bytes) s = .next t ∧ Puts s t evs := by
  have hchunk : feedChunk bytes s = feedAll bytes s := if_neg h
  refine ⟨_, (feedAll bytes s).events, rfl, ?_, (feedAll bytes s).status, (feedAll bytes s).info, ?_⟩
  · rw [hchunk, State.setResp_rout, feedAll_rout]
  · rw [hchunk, State.setResp_resp, if_neg (feedAll_status_ne_closed bytes h)]

/-! ## Layouts -/

/-- A bit string of `n` whole bytes that arrives before other bytes: its bytes, and the events their arrival puts out. -/
theorem arrival_of_bits (n : Nat) (bits : List Bool) (hlen : bits.length = 8 * n) (tail : List Byte) {s : State}
    (h : s.rstate ≠ .closed) :
    ∃ bs t evs, (feedChunk (bitsToBytes (bits ++ bytesToBits tail)) s).respond = .next t ∧
      exec (.rFeedn (bs ++ tail)) s = .next t ∧ Puts s t evs ∧ bs.length = n ∧ bytesToBits bs = bits := by
  have hbits := bytesToBits_bitsToBytes n bits hlen
  have hbytes : bitsToBytes (bits ++ bytesToBits tail) = bitsToBytes bits ++ tail := by
    rw [← bitsToBytes_bytesToBits (bitsToBytes bits ++ tail), bytesToBits_append, hbits]
  obtain ⟨t, evs, hexec, hputs⟩ := exec_rFeedn_puts (bitsToBytes bits ++ tail) h
  refine ⟨bitsToBytes bits, t, evs, by rw [hbytes, ← hexec]; rfl, hexec, hputs, ?_, hbits⟩
  rw [bitsToBytes, length_readBytes, hlen]
  omega

/-- The same for a layout with nothing after it. -/
theorem arrival_of_layout (n : Nat) (bits : List Bool) (hlen : bits.length = 8 * n) {s : State}
    (h : s.rstate ≠ .closed) :
    ∃ bs t evs, (feedChunk (bitsToBytes bits) s).respond = .next t ∧
      exec (.rFeedn bs) s = .next t ∧ Puts s t evs ∧ bs.length = n ∧ bytesToBits bs = bits := by
  simpa [bytesToBits] using arrival_of_bits n bits hlen [] h

/-- Settles O52: the layouts one by one, their fields read where R90 to R94 put them. -/
theorem wireLayoutsArriveAsBytes : Obligations.WireLayoutsArriveAsBytes := by
  intro s h
  refine ⟨fun reserved ver type length id => ?_, fun type => ?_, fun reserved type length => ?_,
    fun vendor subtype tail => ?_, fun vendor subtype tail => ?_⟩
  · obtain ⟨bs, t, evs, hexec, hfeed, hputs, hlen, hbits⟩ := arrival_of_layout 10
      (msghdrBits reserved.toNat ver.toNat type.toNat length.toNat id.toNat) (length_msghdrBits ..) h
    exact ⟨bs, t, evs, hexec, hfeed, hputs, hlen, by simp [-Nat.reducePow, hbits, msghdrBits]⟩
  · obtain ⟨bs, t, evs, hexec, hfeed, hputs, hlen, hbits⟩ := arrival_of_layout 1
      (tvhdrBits type.toNat) (length_tvhdrBits ..) h
    exact ⟨bs, t, evs, hexec, hfeed, hputs, hlen, by simp [-Nat.reducePow, hbits, tvhdrBits]⟩
  · obtain ⟨bs, t, evs, hexec, hfeed, hputs, hlen, hbits⟩ := arrival_of_layout 4
      (tlvhdrBits reserved.toNat type.toNat length.toNat) (length_tlvhdrBits ..) h
    exact ⟨bs, t, evs, hexec, hfeed, hputs, hlen, by simp [-Nat.reducePow, hbits, tlvhdrBits]⟩
  · obtain ⟨bs, t, evs, hexec, hfeed, hputs, hlen, hbits⟩ := arrival_of_bits 5
      (natToBits 32 vendor.toNat ++ natToBits 8 subtype.toNat) (by simp) tail h
    exact ⟨bs, t, evs, hexec, hfeed, hputs, hlen, by simp [-Nat.reducePow, hbits]⟩
  · obtain ⟨bs, t, evs, hexec, hfeed, hputs, hlen, hbits⟩ := arrival_of_bits 8
      (natToBits 32 vendor.toNat ++ natToBits 32 subtype.toNat) (by simp) tail h
    exact ⟨bs, t, evs, hexec, hfeed, hputs, hlen, by simp [-Nat.reducePow, hbits]⟩

end Sys2Proof.Machine
end


section
/-! PROOFS. 30_encoding.md R99 and 93_implementation_defined.md U2, U13: the answers of the decode operations that pass
over reserved or padding bits, as functions of the fields they do read. -/

namespace Sys2Proof.Machine

/-- R14, R15: a slice of a field is the field that stands there. -/
theorem slice_memRead (bits : List Bool) (off n hi lo : Nat) (h : off + n ≤ bits.length) (hhi : hi < n) (hlo : lo ≤ hi) :
    slice (memRead bits off n) hi lo = memRead bits (off + (n - 1 - hi)) (hi - lo + 1) := by
  have hexp : n - (n - 1 - hi) - (hi - lo + 1) = lo := by omega
  rw [slice, memRead_inside bits off n _ _ h (by omega), hexp]

/-- How a decode operation ends: the cursor it leaves and the response. -/
def State.answered (s : State) (answer : Nat × Response) : State :=
  (s.setDcur answer.1).setResp answer.2

/-- Operations that answer alike return the same and leave the cursor in the same place. -/
theorem same_response_of_answer {s t : State} {i : Instr} {answer : Nat × Response}
    (hs : exec i s = .next (s.answered answer)) (ht : exec i t = .next (t.answered answer)) :
    ∃ s' t', exec i s = .next s' ∧ exec i t = .next t' ∧ t'.resp = s'.resp ∧ t'.dcur = s'.dcur :=
  ⟨_, _, hs, ht, rfl, rfl⟩

/-! ## Message header -/

/-- The four fields of a message header that starts at `cur` (R90); the three reserved bits are none of them. -/
def headerAt (bits : List Bool) (cur : Nat) : Header where
  ver := memRead bits (cur + 3) 3
  type := memRead bits (cur + 6) 10
  length := memRead bits (cur + 16) 32
  id := memRead bits (cur + 48) 32

theorem headerAt_congr {a b : List Bool} {cur : Nat} (h : ∀ k, cur + 3 ≤ k → a[k]? = b[k]?) :
    headerAt a cur = headerAt b cur := by
  have hfield (off n : Nat) (hoff : cur + 3 ≤ off) : memRead a off n = memRead b off n :=
    memRead_congr fun k hk _ => h k (by omega)
  simp only [headerAt, Header.mk.injEq]
  exact ⟨hfield _ _ (by omega), hfield _ _ (by omega), hfield _ _ (by omega), hfield _ _ (by omega)⟩

/-- What `D.MSGHDR` answers with the cursor at `cur` in a buffer of `len` bits: the checks of R233 in their order. -/
def msghdrAnswer (exp cur len : Nat) (h : Header) : Nat × Response :=
  if 1023 < exp then (cur, ⟨.badOperand, exp, .absent⟩)
  else if len < cur + 16 then (cur, ⟨.truncatedInput, cur + 16 - len, .absent⟩)
  else if h.type ≠ exp then (cur, ⟨.typeMismatch, h.type, .absent⟩)
  else if len < cur + 48 then (cur + 16, ⟨.truncatedInput, cur + 48 - len, .absent⟩)
  else if len < cur + 80 then (cur + 48, ⟨.truncatedInput, cur + 80 - len, .absent⟩)
  else if h.length < 10 then (cur + 80, ⟨.malformedMessage, h.length, .absent⟩)
  else if len < cur + 8 * h.length then (cur + 80, ⟨.truncatedMessage, cur + 8 * h.length - len, .absent⟩)
  else (cur + 80, ⟨.ok, 0, .msgHeader h.ver h.type h.length h.id cur (cur + 8 * h.length)⟩)

theorem exec_dMsghdr (exp : Nat) (s : State) :
    exec (.dMsghdr exp) s = .next (s.answered (msghdrAnswer exp s.dcur s.dlen (headerAt s.dbits s.dcur))) := by
  change execDMsghdr exp s = _
  unfold execDMsghdr msghdrAnswer
  by_cases hexp : 1023 < exp
  · rw [if_pos hexp, if_pos hexp]; rfl
  rw [if_neg hexp, if_neg hexp]
  by_cases h16 : s.dlen < s.dcur + 16
  · rw [readField_of_lt h16, if_pos h16]; rfl
  have hver : slice (memRead s.dbits s.dcur 16) 12 10 = (headerAt s.dbits s.dcur).ver :=
    slice_memRead _ _ 16 12 10 (by simpa [State.dlen] using h16) (by decide) (by decide)
  have htype : slice (memRead s.dbits s.dcur 16) 9 0 = (headerAt s.dbits s.dcur).type :=
    slice_memRead _ _ 16 9 0 (by simpa [State.dlen] using h16) (by decide) (by decide)
  rw [readField_of_le (Nat.not_lt.mp h16), if_neg h16]
  simp only [Ret.andThen_ok, hver, htype]
  by_cases hmatch : (headerAt s.dbits s.dcur).type ≠ exp
  · rw [if_pos hmatch, if_pos hmatch]; rfl
  rw [if_neg hmatch, if_neg hmatch]
  by_cases h48 : s.dlen < s.dcur + 48
  · rw [readField_of_lt (s := s.setDcur (s.dcur + 16)) h48, if_pos h48]; rfl
  have hlength : readField 32 (s.setDcur (s.dcur + 16)) =
      .ok (headerAt s.dbits s.dcur).length (s.setDcur (s.dcur + 48)) :=
    readField_of_le (s := s.setDcur (s.dcur + 16)) (Nat.not_lt.mp h48)
  rw [hlength, if_neg h48, Ret.andThen_ok]
  by_cases h80 : s.dlen < s.dcur + 80
  · rw [readField_of_lt (s := s.setDcur (s.dcur + 48)) h80, if_pos h80]; rfl
  have hid : readField 32 (s.setDcur (s.dcur + 48)) = .ok (headerAt s.dbits s.dcur).id (s.setDcur (s.dcur + 80)) :=
    readField_of_le (s := s.setDcur (s.dcur + 48)) (Nat.not_lt.mp h80)
  rw [hid, if_neg h80, Ret.andThen_ok]
  by_cases hshort : (headerAt s.dbits s.dcur).length < 10
  · rw [if_pos hshort, if_pos hshort]; rfl
  rw [if_neg hshort, if_neg hshort, State.setDcur_dlen]
  by_cases hend : s.dlen < s.dcur + 8 * (headerAt s.dbits s.dcur).length
  · rw [if_pos hend, if_pos hend]; rfl
  · rw [if_neg hend, if_neg hend]; rfl

/-! ## TLV parameter header -/

/-- What `D.PARHDR` answers on a TLV header with the cursor at `cur` in a buffer of `len` bits (R238, R240). -/
def tlvhdrAnswer (cur len type length : Nat) : Nat × Response :=
  if len < cur + 16 then (cur, ⟨.truncatedInput, cur + 16 - len, .absent⟩)
  else if len < cur + 32 then (cur + 16, ⟨.truncatedInput, cur + 32 - len, .absent⟩)
  else if length < 4 then (cur + 32, ⟨.malformedParameter, length, .absent⟩)
  else (cur + 32, ⟨.ok, 0, .tlvHeader type length cur (cur + 8 * length)⟩)

theorem exec_dParhdr_tlv {s : State} (hsel : s.dbits[s.dcur]? = some false) :
    exec .dParhdr s = .next (s.answered
      (tlvhdrAnswer s.dcur s.dlen (memRead s.dbits (s.dcur + 6) 10) (memRead s.dbits (s.dcur + 16) 16))) := by
  have hone : s.dcur < s.dlen := (List.getElem?_eq_some_iff.mp hsel).1
  have hzero : memRead s.dbits s.dcur 1 ≠ 1 := by
    rw [memRead_one _ _ hone, bitAt, List.getD_eq_getElem?_getD, hsel]
    decide
  change execDParhdr s = _
  unfold execDParhdr tlvhdrAnswer
  simp only [if_neg (Nat.not_lt.mpr hone), if_neg hzero]
  by_cases h16 : s.dlen < s.dcur + 16
  · rw [readField_of_lt h16, if_pos h16]; rfl
  have htype : slice (memRead s.dbits s.dcur 16) 9 0 = memRead s.dbits (s.dcur + 6) 10 :=
    slice_memRead _ _ 16 9 0 (by simpa [State.dlen] using h16) (by decide) (by decide)
  rw [readField_of_le (Nat.not_lt.mp h16), if_neg h16, Ret.andThen_ok, htype]
  by_cases h32 : s.dlen < s.dcur + 32
  · rw [readField_of_lt (s := s.setDcur (s.dcur + 16)) h32, if_pos h32]; rfl
  have hlength : readField 16 (s.setDcur (s.dcur + 16)) =
      .ok (memRead s.dbits (s.dcur + 16) 16) (s.setDcur (s.dcur + 32)) :=
    readField_of_le (s := s.setDcur (s.dcur + 16)) (Nat.not_lt.mp h32)
  rw [hlength, if_neg h32, Ret.andThen_ok]
  split_ifs <;> rfl

/-! ## Bit-vector -/

/-- What `D.BITV n` answers where `bits` are the `n` bits at the cursor (R196). -/
def bitvAnswer (n cur len : Nat) (bits : List Bool) : Nat × Response :=
  if len < cur + ceil8 n then (cur, ⟨.truncatedInput, cur + ceil8 n - len, .absent⟩)
  else (cur + ceil8 n, ⟨.ok, 0, .bits bits⟩)

theorem exec_dBitv (n : Nat) (s : State) :
    exec (.dBitv n) s = .next (s.answered (bitvAnswer n s.dcur s.dlen ((s.dbits.drop s.dcur).take n))) := by
  change execDBitv n s = _
  unfold execDBitv bitvAnswer
  by_cases h : s.dlen < s.dcur + ceil8 n
  · rw [readWhole_of_lt h, if_pos h]; rfl
  · rw [readWhole_of_le (Nat.not_lt.mp h), if_neg h]; rfl

/-! ## Ignored bits -/

/-- Settles O32: the bits that may differ lie outside every field that the answer depends on. -/
theorem ignoredBitsHaveNoEffect : Obligations.IgnoredBitsHaveNoEffect := by
  intro s t i lo hi hst hlen hagree hcase
  have hcur : t.dcur = s.dcur := by rw [hst]
  rcases hcase with ⟨exp, rfl, rfl, rfl⟩ | ⟨rfl, hsel, rfl, rfl⟩ | ⟨n, rfl, rfl, rfl⟩
  · have hfields : headerAt t.dbits s.dcur = headerAt s.dbits s.dcur := headerAt_congr fun k hk => hagree k (.inr hk)
    refine same_response_of_answer (exec_dMsghdr exp s) ?_
    rw [exec_dMsghdr, hcur, hlen, hfields]
  · have hselt : t.dbits[t.dcur]? = some false := by rw [hcur, hagree _ (.inl (by omega)), hsel]
    have hfield (off w : Nat) (hoff : s.dcur + 6 ≤ off) : memRead t.dbits off w = memRead s.dbits off w :=
      memRead_congr fun k hk _ => hagree k (.inr (by omega))
    refine same_response_of_answer (exec_dParhdr_tlv hsel) ?_
    rw [exec_dParhdr_tlv hselt, hcur, hlen, hfield _ _ le_rfl, hfield _ _ (by omega)]
  · have hbits : (t.dbits.drop s.dcur).take n = (s.dbits.drop s.dcur).take n :=
      take_drop_congr fun k _ hk => hagree k (.inl hk)
    refine same_response_of_answer (exec_dBitv n s) ?_
    rw [exec_dBitv, hcur, hlen, hbits]

end Sys2Proof.Machine
end

section
/-! PROOFS. 00_scope.md section 6 (R15) and 20_memory.md (R62): where the bits of a byte stand in a buffer, and the value
of a byte read from one. -/

namespace Sys2Proof.Machine

/-- R62: bit `i` of a byte on the wire is its value bit `7 - i`. -/
theorem getElem?_byteToBits (b : Byte) (i : Nat) (hi : i < 8) : (byteToBits b)[i]? = some (b.getLsbD (7 - i)) :=
  getElem?_natToBits 8 b.toNat i hi

/-- R62, R132: bit `i` of byte `j` stands at offset `8 * j + i`. -/
theorem getElem?_bytesToBits (l : List Byte) (j i : Nat) (b : Byte) (hb : l[j]? = some b) (hi : i < 8) :
    (bytesToBits l)[8 * j + i]? = some (b.getLsbD (7 - i)) := by
  induction l generalizing j with
  | nil => cases hb
  | cons a l ih =>
    rw [bytesToBits_cons]
    cases j with
    | zero =>
      obtain rfl : a = b := by simpa using hb
      rw [List.getElem?_append_left (by rw [length_byteToBits]; omega), Nat.mul_zero, Nat.zero_add,
        getElem?_byteToBits a i hi]
    | succ j =>
      have hskip : 8 * (j + 1) + i - 8 = 8 * j + i := by omega
      rw [List.getElem?_append_right (by rw [length_byteToBits]; omega), length_byteToBits, hskip]
      exact ih j (by simpa using hb)

/-- R15, R192: byte `k` of a read inside the buffer is the field of 8 bits that stands there. -/
theorem toNat_of_getElem?_readBytes {bits : List Bool} {off n k : Nat} {b : Byte} (hlen : off + 8 * n ≤ bits.length)
    (hb : (readBytes bits off n)[k]? = some b) : b.toNat = memValue bits (off + 8 * k) 8 := by
  have hk : k < n := by simpa using (List.getElem?_eq_some_iff.mp hb).1
  have hbyte : BitVec.ofNat 8 (memRead bits (off + 8 * k) 8) = b := by
    simpa [readBytes, List.getElem?_range hk] using hb
  rw [← hbyte, BitVec.toNat_ofNat, Nat.mod_eq_of_lt (memRead_lt _ _ 8), memRead_eq_memValue _ _ _ (by omega)]

end Sys2Proof.Machine
end

section
/-! PROOFS. 40_buffer_ops.md (R132 to R141) and 47_reassembler.md R302: the buffer operations and the reports. -/

namespace Sys2Proof.Machine

/-! ## Decode buffer -/

/-- R132: the bytes fit. -/
theorem exec_dLoad_of_fits {s : State} {bytes : List Byte} (h : Fits s.cfg.dcapBits (8 * bytes.length)) :
    exec (.dLoad bytes) s = .next ((s.setDbuf (bytesToBits bytes) 0).setResp ⟨.ok, 0, .absent⟩) := by
  change execDLoad bytes s = _
  rw [execDLoad, (exceeds_eq_false_iff _ _).mpr h]
  rfl

/-- R132: the bytes do not fit. -/
theorem exec_dLoad_of_not_fits {s : State} {bytes : List Byte} (h : ¬Fits s.cfg.dcapBits (8 * bytes.length)) :
    exec (.dLoad bytes) s = .next (s.setResp ⟨.overflow, 8 * bytes.length, .absent⟩) := by
  change execDLoad bytes s = _
  rw [execDLoad, (exceeds_eq_true_iff _ _).mpr h]
  rfl

/-- Settles O6: the loaded buffer is the bits of the bytes, so its length and every bit are those of R62. -/
theorem loadFillsDecodeBuffer : Obligations.LoadFillsDecodeBuffer := fun _ bytes =>
  ⟨fun hfit => ⟨_, exec_dLoad_of_fits hfit, rfl, length_bytesToBits bytes, getElem?_bytesToBits bytes⟩,
    exec_dLoad_of_not_fits⟩

/-- R133: the cursor may stand anywhere up to the end of the buffer. -/
theorem exec_dSeek_of_le {s : State} {off : Nat} (h : off ≤ s.dlen) :
    exec (.dSeek off) s = .next ((s.setDcur off).setResp ⟨.ok, 0, .absent⟩) := by
  change execDSeek off s = _
  rw [execDSeek, if_neg (Nat.not_lt.mpr h)]
  rfl

/-- Settles O7: a seek inside the buffer, and one past its end, which is a clause of R103. -/
theorem seekSetsCursor : Obligations.SeekSetsCursor := by
  obtain ⟨_, _, hpast⟩ := illegalOperationsAreBadOperand
  exact fun s off => ⟨exec_dSeek_of_le, hpast off s⟩

/-! ## Reports -/

/-- R302: between operations the reassembler's variables have one of three forms. -/
theorem reassembler_forms {s : State} (h : reassemblerOk s = true) :
    (s.rstate = .awaitingHeader ∧ s.hcnt ≤ 9 ∧ s.mlen = 0 ∧ s.mcnt = 0) ∨
    (s.rstate = .awaitingBody ∧ s.hcnt = 0 ∧ 10 ≤ s.mcnt ∧ s.mcnt < s.mlen ∧ s.mlen ≤ s.cfg.maxMsgLen) ∨
    (s.rstate = .closed ∧ s.hcnt = 0 ∧ s.mlen = 0 ∧ s.mcnt = 0) := by
  unfold reassemblerOk at h
  cases hr : s.rstate <;> simp only [hr, Bool.and_eq_true, decide_eq_true_eq] at h
  case awaitingHeader =>
    obtain ⟨⟨hhcnt, hmlen⟩, hmbuf⟩ := h
    exact .inl ⟨rfl, hhcnt, hmlen, List.length_eq_zero_iff.mpr hmbuf⟩
  case awaitingBody =>
    obtain ⟨⟨⟨⟨⟨hhcnt, hten⟩, hpart⟩, hmax⟩, _⟩, _⟩ := h
    exact .inr (.inl ⟨rfl, hhcnt, hten, hpart, hmax⟩)
  case closed =>
    obtain ⟨⟨hhcnt, hmlen⟩, hmbuf⟩ := h
    exact .inr (.inr ⟨rfl, hhcnt, hmlen, List.length_eq_zero_iff.mpr hmbuf⟩)

/-- Settles O8: a report writes the response alone (R134, R140, R302), and the forms are those of the invariant. -/
theorem reportsChangeNothing : Obligations.ReportsChangeNothing := fun _ =>
  ⟨rfl, rfl, rfl, fun ⟨_, _, hreassembler⟩ => reassembler_forms hreassembler⟩

/-! ## Encode buffer -/

/-- R141: the buffer holds whole bytes. -/
theorem exec_eRead_of_aligned {s : State} (h : s.elen % 8 = 0) :
    exec .eRead s = .next (s.setResp ⟨.ok, 0, .bytes (readBytes s.ebits 0 (s.elen / 8))⟩) := by
  change execERead s = _
  rw [execERead, if_neg (not_not.mpr h)]
  rfl

/-- R141: the buffer does not hold whole bytes. -/
theorem exec_eRead_of_unaligned {s : State} (h : s.elen % 8 ≠ 0) :
    exec .eRead s = .next (s.setResp ⟨.notByteAligned, s.elen % 8, .absent⟩) := by
  change execERead s = _
  rw [execERead, if_pos h]
  rfl

/-- Settles O9: `E.NEW` (R139), and the two answers of `E.READ` (R141); its bytes lie inside the buffer, so each is the
field of R15. -/
theorem newEmptiesAndReadReturnsBytes : Obligations.NewEmptiesAndReadReturnsBytes := by
  refine fun s => ⟨rfl, fun haligned => ?_, exec_eRead_of_unaligned⟩
  refine ⟨_, exec_eRead_of_aligned haligned, length_readBytes _ _ _, fun j b hb => ?_⟩
  have hinside : 0 + 8 * (s.elen / 8) ≤ s.ebits.length := by
    rw [Nat.zero_add]
    exact Nat.mul_div_le _ _
  simpa using toNat_of_getElem?_readBytes hinside hb

end Sys2Proof.Machine
end

section
/-! PROOFS. 41_scalar_decode.md R150 to R164: the scalar reads, and what they read back of a scalar append. -/

namespace Sys2Proof.Machine

/-! ## Scalar reads as one field read -/

theorem legalWidth_eq_true {w : Nat} (h : 1 ≤ w ∧ w ≤ 64) : legalWidth w = true := by
  simpa [legalWidth] using h

/-- R160: past its width check, `D.BITS` is the read of an unsigned field. -/
theorem exec_dBits_of_legal {w : Nat} (h : 1 ≤ w ∧ w ≤ 64) (s : State) :
    exec (.dBits w) s = (readUnsigned w s).respond := by
  change execDBits w s = _
  rw [execDBits, legalWidth_eq_true h]
  rfl

/-- R152, R153, R154, R156, R158, R160: the unsigned kinds differ in their width alone. -/
theorem exec_of_decodesUnsigned {i : Instr} {w : Nat} (h : DecodesUnsigned i w) (s : State) :
    exec i s = (readUnsigned w s).respond := by
  rcases h with h | ⟨h1, h64, rfl⟩
  · simp only [List.mem_cons, Prod.mk.injEq, List.not_mem_nil, or_false] at h
    rcases h with ⟨rfl, rfl⟩ | ⟨rfl, rfl⟩ | ⟨rfl, rfl⟩ | ⟨rfl, rfl⟩ | ⟨rfl, rfl⟩ <;> rfl
  · exact exec_dBits_of_legal ⟨h1, h64⟩ s

/-- R155, R157, R159: the signed kinds differ in their width alone. -/
theorem exec_of_decodesSigned {i : Instr} {w : Nat} (h : DecodesSigned i w) (s : State) :
    exec i s = (readSigned w s).respond := by
  simp only [DecodesSigned, List.mem_cons, Prod.mk.injEq, List.not_mem_nil, or_false] at h
  rcases h with ⟨rfl, rfl⟩ | ⟨rfl, rfl⟩ | ⟨rfl, rfl⟩ <;> rfl

/-! ## The answers of a scalar read -/

/-- R150: the bits are there. -/
theorem readUnsigned_of_le {w : Nat} {s : State} (h : s.dcur + w ≤ s.dlen) :
    readUnsigned w s = .ok (.uval (memValue s.dbits s.dcur w)) (s.setDcur (s.dcur + w)) := by
  rw [readUnsigned, readField_of_le h, memRead_eq_memValue _ _ _ h]
  rfl

/-- R151: they are not. -/
theorem readUnsigned_of_lt {w : Nat} {s : State} (h : s.dlen < s.dcur + w) :
    readUnsigned w s = .raised .truncatedInput (s.dcur + w - s.dlen) s := by
  rw [readUnsigned, readField_of_lt h]
  rfl

/-- R150, R162: the bits are there. -/
theorem readSigned_of_le {w : Nat} {s : State} (h : s.dcur + w ≤ s.dlen) :
    readSigned w s = .ok (.sval (signedOf w (memValue s.dbits s.dcur w))) (s.setDcur (s.dcur + w)) := by
  rw [readSigned, readField_of_le h, memRead_eq_memValue _ _ _ h]
  rfl

/-- R151: they are not. -/
theorem readSigned_of_lt {w : Nat} {s : State} (h : s.dlen < s.dcur + w) :
    readSigned w s = .raised .truncatedInput (s.dcur + w - s.dlen) s := by
  rw [readSigned, readField_of_lt h]
  rfl

theorem exec_dBits_of_le {w : Nat} {s : State} (hw : 1 ≤ w ∧ w ≤ 64) (h : s.dcur + w ≤ s.dlen) :
    exec (.dBits w) s =
      .next ((s.setDcur (s.dcur + w)).setResp ⟨.ok, 0, .uval (memValue s.dbits s.dcur w)⟩) := by
  rw [exec_dBits_of_legal hw, readUnsigned_of_le h, Ret.respond_ok]

theorem exec_dBits_of_lt {w : Nat} {s : State} (hw : 1 ≤ w ∧ w ≤ 64) (h : s.dlen < s.dcur + w) :
    exec (.dBits w) s = .next (s.setResp ⟨.truncatedInput, s.dcur + w - s.dlen, .absent⟩) := by
  rw [exec_dBits_of_legal hw, readUnsigned_of_lt h, Ret.respond_raised]

/-! ## The value of a field -/

theorem memValue_lt {bits : List Bool} {off n : Nat} (h : off + n ≤ bits.length) : memValue bits off n < 2 ^ n :=
  memRead_eq_memValue bits off n h ▸ memRead_lt bits off n

/-- R64, of the sum of R15. -/
theorem memValue_add (bits : List Bool) (off a b : Nat) (h : off + a + b ≤ bits.length) :
    memValue bits off (a + b) = memValue bits off a * 2 ^ b + memValue bits (off + a) b := by
  rw [← memRead_eq_memValue _ _ _ (by omega), ← memRead_eq_memValue _ _ _ (by omega), ← memRead_eq_memValue _ _ _ h,
    memRead_add bits off a b h]

/-- R15, R170: a field that stands between others is read at the length of what comes before it. -/
theorem memValue_middle (l r : List Bool) (n v : Nat) :
    memValue (l ++ natToBits n v ++ r) l.length n = v % 2 ^ n := by
  have hmid := memRead_middle l (natToBits n v) r
  rw [length_natToBits, bitsToNat_natToBits] at hmid
  rw [← memRead_eq_memValue _ _ _ (by simp), hmid]

/-! ## Two's complement -/

/-- R162: `signed_w` is the two's-complement value of a pattern of `w` bits. -/
theorem signedOf_toNat {w : Nat} (b : BitVec w) : signedOf w b.toNat = b.toInt := by
  rw [signedOf, BitVec.toInt_eq_toNat_cond]
  cases w with
  | zero => simp [BitVec.of_length_zero]
  | succ k =>
    rw [Nat.add_sub_cancel]
    by_cases h : b.toNat < 2 ^ k
    · rw [if_pos h, if_pos (by omega)]
    · rw [if_neg h, if_neg (by omega)]
      push_cast
      rfl

/-- R162: the range of a signed kind. -/
theorem signedOf_range {w acc : Nat} (h : acc < 2 ^ w) :
    -(2 ^ (w - 1) : Int) ≤ signedOf w acc ∧ signedOf w acc < 2 ^ (w - 1) := by
  have hpattern : (BitVec.ofNat w acc).toNat = acc := by rw [BitVec.toNat_ofNat, Nat.mod_eq_of_lt h]
  rw [← hpattern, signedOf_toNat]
  exact ⟨BitVec.le_toInt _, BitVec.toInt_lt⟩

/-! ## The statements about scalar reads -/

/-- Settles O10: bit by bit, the loop doubles and adds as the sum does (`memValue_succ`). -/
theorem accumulatorComputesMemRead : Obligations.AccumulatorComputesMemRead :=
  memRead_eq_memValue

/-- Settles O13: every unsigned kind is one field read, which has two answers (R150, R151). -/
theorem unsignedDecodeReturnsField : Obligations.UnsignedDecodeReturnsField := by
  intro s i w hi
  rw [exec_of_decodesUnsigned hi]
  refine ⟨fun hle => ⟨?_, memValue_lt hle⟩, fun hlt => ?_⟩
  · rw [readUnsigned_of_le hle]
    rfl
  · rw [readUnsigned_of_lt hlt]
    rfl

/-- Settles O14: every signed kind is one field read, its value that of the pattern in two's complement (R162). -/
theorem signedDecodeReinterpretsField : Obligations.SignedDecodeReinterpretsField := by
  intro s i w hi
  rw [exec_of_decodesSigned hi]
  refine ⟨fun hle => ⟨signedOf w (memValue s.dbits s.dcur w), ?_, fun hlow => if_pos hlow,
    fun hhigh => if_neg (Nat.not_lt.mpr hhigh), signedOf_range (memValue_lt hle)⟩, fun hlt => ?_⟩
  · rw [readSigned_of_le hle]
    rfl
  · rw [readSigned_of_lt hlt]
    rfl

/-- Settles O15: a width is refused first, and a legal one makes `D.BITS` an unsigned kind, so O13 speaks of it. -/
theorem bitFieldDecode : Obligations.BitFieldDecode := by
  intro s w
  have hfield (hw : 1 ≤ w ∧ w ≤ 64) := unsignedDecodeReturnsField s (.dBits w) w (.inr ⟨hw.1, hw.2, rfl⟩)
  refine ⟨fun hw => respond_legalWidth_of_illegal (by omega) s _, fun hw hle => ?_, fun hw => (hfield hw).2,
    exec_dBits_of_legal (by decide) s, exec_dBits_of_legal (by decide) s, exec_dBits_of_legal (by decide) s,
    exec_dBits_of_legal (by decide) s, exec_dBits_of_legal (by decide) s⟩
  obtain ⟨hread, hlt⟩ := (hfield hw).1 hle
  exact ⟨hread, Nat.le_sub_one_of_lt hlt⟩

/-- Settles O16: joint width and parts read the same bits (R64), and a truncated read leaves the cursor where it stood. -/
theorem bitFieldsSplit : Obligations.BitFieldsSplit := by
  intro s a b ha hb hab
  have hwa : 1 ≤ a ∧ a ≤ 64 := by omega
  have hwb : 1 ≤ b ∧ b ≤ 64 := by omega
  have hwab : 1 ≤ a + b ∧ a + b ≤ 64 := by omega
  refine ⟨fun hall => ?_, fun hfirst hshort => ?_⟩
  · have hjoint := memValue_add s.dbits s.dcur a b hall
    exact ⟨_, _, _, _, _, exec_dBits_of_le hwa (by omega), rfl, exec_dBits_of_le hwb hall, rfl,
      exec_dBits_of_le hwab (by omega), congrArg (okResp <| .uval ·) hjoint, Nat.add_assoc _ _ _⟩
  · exact ⟨_, _, _, _, _, _, exec_dBits_of_le hwa hfirst, rfl, exec_dBits_of_lt hwb hshort, rfl, rfl,
      exec_dBits_of_lt hwab (by omega), rfl, rfl⟩

end Sys2Proof.Machine
end

section
/-! PROOFS. 41_scalar_decode.md R164 and 42_scalar_encode.md R181: what a scalar append writes is what the matching read
returns, once the buffer has gone out as bytes and come in again. -/

namespace Sys2Proof.Machine

/-! ## Scalar appends as one field append -/

/-- R172 to R180: the scalar kinds differ in their width alone. -/
theorem exec_of_encodesScalar {f : Port → Instr} {w : Nat} (h : EncodesUnsigned f w ∨ EncodesSigned f w) (val : Port)
    (s : State) : exec (f val) s = (appendField w val s).respond := by
  simp only [EncodesUnsigned, EncodesSigned, List.mem_cons, Prod.mk.injEq, List.not_mem_nil, or_false] at h
  rcases h with ((⟨rfl, rfl⟩ | ⟨rfl, rfl⟩ | ⟨rfl, rfl⟩ | ⟨rfl, rfl⟩ | ⟨rfl, rfl⟩) | ⟨h1, h64, rfl⟩) |
    (⟨rfl, rfl⟩ | ⟨rfl, rfl⟩ | ⟨rfl, rfl⟩)
  case inl.inr =>
    change execEBits w val s = _
    rw [execEBits, legalWidth_eq_true ⟨h1, h64⟩]
    rfl
  all_goals rfl

/-- R170: the field fits. -/
theorem appendField_of_fits {w : Nat} {s : State} (h : Fits s.cfg.ecapBits (s.elen + w)) (val : Port) :
    appendField w val s = .ok .absent (s.setEbits (s.ebits ++ natToBits w (portField w val))) := by
  rw [appendField, appendBits, length_natToBits, (exceeds_eq_false_iff _ _).mpr h]
  rfl

/-! ## From one buffer to the other -/

/-- R62, R132, R133, R141: what `E.READ` returns, loaded and sought in, is the encode buffer from the offset on. -/
theorem exec_eRead_dLoad_dSeek {u : State} {off : Nat} (haligned : u.elen % 8 = 0) (hfits : Fits u.cfg.dcapBits u.elen)
    (hoff : off ≤ u.elen) :
    ∃ (bs : List Byte) (u1 u2 u3 : State), exec .eRead u = .next u1 ∧ u1.resp = okResp (.bytes bs) ∧
      exec (.dLoad bs) u1 = .next u2 ∧ exec (.dSeek off) u2 = .next u3 ∧ u3.dbits = u.ebits ∧ u3.dcur = off := by
  have hbits : bytesToBits (bitsToBytes u.ebits) = u.ebits :=
    bytesToBits_bitsToBytes (u.elen / 8) u.ebits (Nat.mul_div_cancel' (Nat.dvd_of_mod_eq_zero haligned)).symm
  have hlen : 8 * (bitsToBytes u.ebits).length = u.elen := by rw [← length_bytesToBits, hbits, State.elen]
  refine ⟨bitsToBytes u.ebits, _, _, _, exec_eRead_of_aligned haligned, rfl, exec_dLoad_of_fits ?_, exec_dSeek_of_le ?_,
    hbits, rfl⟩
  · rw [hlen]
    exact hfits
  · simpa [hlen] using hoff

/-! ## Matching kinds -/

/-- R164: the two operations of a scalar kind are unsigned together or signed together, of one width. -/
theorem ScalarPair.kinds {f : Port → Instr} {i : Instr} {w : Nat} {value : Port → Results} (h : ScalarPair f i w value) :
    (EncodesUnsigned f w ∧ DecodesUnsigned i w ∧ value = fun val => .uval (val.toNat % 2 ^ w)) ∨
    (EncodesSigned f w ∧ DecodesSigned i w ∧ value = fun val => .sval (val.setWidth w).toInt) := by
  simp only [ScalarPair, List.mem_cons, Prod.mk.injEq, List.not_mem_nil, or_false] at h
  rcases h with ⟨hkind, hvalue⟩ | ⟨h1, h64, hf, hi, hvalue⟩ | ⟨hkind, hvalue⟩
  · refine .inl ⟨.inl ?_, .inl ?_, hvalue⟩ <;>
      rcases hkind with ⟨rfl, rfl, rfl⟩ | ⟨rfl, rfl, rfl⟩ | ⟨rfl, rfl, rfl⟩ | ⟨rfl, rfl, rfl⟩ | ⟨rfl, rfl, rfl⟩ <;> simp
  · exact .inl ⟨.inr ⟨h1, h64, hf⟩, .inr ⟨h1, h64, hi⟩, hvalue⟩
  · refine .inr ⟨?_, ?_, hvalue⟩ <;> rcases hkind with ⟨rfl, rfl, rfl⟩ | ⟨rfl, rfl, rfl⟩ | ⟨rfl, rfl, rfl⟩ <;>
      simp [EncodesSigned, DecodesSigned]

theorem ScalarPair.encodes {f : Port → Instr} {i : Instr} {w : Nat} {value : Port → Results}
    (h : ScalarPair f i w value) : EncodesUnsigned f w ∨ EncodesSigned f w :=
  h.kinds.imp And.left And.left

/-- R164: the matching read of a field that holds the port's low bits returns the value of the kind. -/
theorem ScalarPair.exec_decode {f : Port → Instr} {i : Instr} {w : Nat} {value : Port → Results}
    (h : ScalarPair f i w value) {s : State} {val : Port} (hle : s.dcur + w ≤ s.dlen)
    (hfield : memValue s.dbits s.dcur w = val.toNat % 2 ^ w) :
    exec i s = .next ((s.setDcur (s.dcur + w)).setResp ⟨.ok, 0, value val⟩) := by
  rcases h.kinds with ⟨_, hi, rfl⟩ | ⟨_, hi, rfl⟩
  · rw [exec_of_decodesUnsigned hi, readUnsigned_of_le hle, hfield, Ret.respond_ok]
  · rw [exec_of_decodesSigned hi, readSigned_of_le hle, hfield, ← BitVec.toNat_setWidth, signedOf_toNat, Ret.respond_ok]

/-- Settles O20: the appended field lies at the old length whatever follows it, and the decode buffer is loaded with the
very bits of the encode buffer. -/
theorem scalarRoundTrip : Obligations.ScalarRoundTrip := by
  intro f i w value hpair s val hfits
  have hmiddle (more : List Bool) :
      memValue (s.ebits ++ natToBits w (portField w val) ++ more) s.elen w = val.toNat % 2 ^ w := by
    rw [State.elen, memValue_middle, portField, Nat.mod_mod]
  refine ⟨(s.setEbits (s.ebits ++ natToBits w (portField w val))).setResp ⟨.ok, 0, .absent⟩, ?_, ?_, ?_, ?_, ?_⟩
  · rw [exec_of_encodesScalar hpair.encodes, appendField_of_fits hfits, Ret.respond_ok]
  · simp [State.elen]
  · exact List.take_left
  · simpa using hmiddle []
  · intro u more hu haligned hcap
    have hlen : s.elen + w ≤ u.elen := by
      simp [State.elen, hu]
    obtain ⟨bs, u1, u2, u3, hread, hbytes, hload, hseek, hbits, hcur⟩ :=
      exec_eRead_dLoad_dSeek haligned hcap (off := s.elen) (by omega)
    refine ⟨bs, u1, u2, u3, _, hread, hbytes, hload, hseek, hpair.exec_decode ?_ ?_, rfl, congrArg (· + w) hcur⟩
    · rwa [hcur, State.dlen, hbits]
    · rw [hcur, hbits, hu]
      exact hmiddle more

end Sys2Proof.Machine
end

section
/-! PROOFS. 42_scalar_encode.md R170 to R183: the two answers of a scalar append, the bits it writes, and sequences of
appends. -/

namespace Sys2Proof.Machine

/-! ## The bits of a field -/

/-- R170, R171: bit `j` of the pattern, for a bit inside the field, is bit `j` of the port. -/
theorem testBit_portField {w j : Nat} (hj : j < w) (val : Port) : (portField w val).testBit j = val.getLsbD j := by
  rw [portField, Nat.testBit_mod_two_pow, decide_eq_true hj, Bool.true_and, BitVec.testBit_toNat]

/-- R170: the `w` low bits of the port, most significant first. -/
theorem getElem?_natToBits_portField {w i : Nat} (hi : i < w) (val : Port) :
    (natToBits w (portField w val))[i]? = some (val.getLsbD (w - 1 - i)) := by
  rw [getElem?_natToBits w _ i hi, testBit_portField (by omega)]

theorem natToBits_portField (w : Nat) (val : Port) :
    natToBits w (portField w val) = (List.range w).map fun i => val.getLsbD (w - 1 - i) := by
  refine List.ext_getElem? fun i => ?_
  by_cases hi : i < w
  · rw [getElem?_natToBits_portField hi, List.getElem?_map, List.getElem?_range hi, Option.map_some]
  · rw [List.getElem?_eq_none (by simpa using hi), List.getElem?_eq_none (by simpa using hi)]

/-! ## The answers of a scalar append -/

/-- R182: the field does not fit. -/
theorem appendField_of_not_fits {w : Nat} {s : State} (h : ¬Fits s.cfg.ecapBits (s.elen + w)) (val : Port) :
    appendField w val s = .raised .overflow (s.elen + w) s := by
  rw [appendField, appendBits, length_natToBits, (exceeds_eq_true_iff _ _).mpr h]
  rfl

/-- R180: past its width check, `E.BITS` is the append of a field. -/
theorem exec_eBits_of_legal {w : Nat} (h : 1 ≤ w ∧ w ≤ 64) (val : Port) (s : State) :
    exec (.eBits w val) s = (appendField w val s).respond :=
  exec_of_encodesScalar (.inl (.inr ⟨h.1, h.2, rfl⟩)) val s

section
variable {f : Port → Instr} {w : Nat} (hf : EncodesUnsigned f w ∨ EncodesSigned f w) {s : State}
include hf

/-- R7, R171: no scalar kind is wider than the port. -/
theorem width_le_of_encodesScalar : w ≤ 64 := by
  simp only [EncodesUnsigned, EncodesSigned, List.mem_cons, Prod.mk.injEq, List.not_mem_nil, or_false] at hf
  omega

/-- R170: the field fits. -/
theorem exec_encodesScalar_of_fits (h : Fits s.cfg.ecapBits (s.elen + w)) (val : Port) :
    exec (f val) s =
      .next ((s.setEbits (s.ebits ++ natToBits w (portField w val))).setResp ⟨.ok, 0, .absent⟩) := by
  rw [exec_of_encodesScalar hf, appendField_of_fits h, Ret.respond_ok]

/-- R182: the field does not fit. -/
theorem exec_encodesScalar_of_not_fits (h : ¬Fits s.cfg.ecapBits (s.elen + w)) (val : Port) :
    exec (f val) s = .next (s.setResp ⟨.overflow, s.elen + w, .absent⟩) := by
  rw [exec_of_encodesScalar hf, appendField_of_not_fits h, Ret.respond_raised]

/-- R171: what is appended is the low `w` bits of the port as a number. -/
theorem exec_encodesScalar_memValue (h : Fits s.cfg.ecapBits (s.elen + w)) (val : Port) :
    ∃ t, exec (f val) s = .next t ∧ t.resp = okResp .absent ∧ memValue t.ebits s.elen w = val.toNat % 2 ^ w := by
  refine ⟨_, exec_encodesScalar_of_fits hf h val, rfl, ?_⟩
  have hmiddle := memValue_middle s.ebits [] w (portField w val)
  rwa [List.append_nil, portField, Nat.mod_mod] at hmiddle

end

/-- Settles O17: a fitting append puts the bit string of the field after the old contents, so an old bit stands where it
stood and bit `i` of the field stands `i` places further. -/
theorem scalarEncodeAppendsField : Obligations.ScalarEncodeAppendsField := by
  intro s f w val hf
  refine ⟨fun hfits => ?_, fun hfull => exec_encodesScalar_of_not_fits hf hfull val⟩
  refine ⟨_, exec_encodesScalar_of_fits hf hfits val, rfl, ?_, List.take_left, fun i hi => ?_⟩
  · simp [State.elen]
  · calc (s.ebits ++ natToBits w (portField w val))[s.ebits.length + i]?
      _ = (natToBits w (portField w val))[i]? := by
        rw [List.getElem?_append_right (Nat.le_add_right _ _), Nat.add_sub_cancel_left]
      _ = some (val.getLsbD (w - 1 - i)) := getElem?_natToBits_portField hi val

/-- Settles O18: a width is refused first, and a legal one makes `E.BITS` the same field append as the other kinds. -/
theorem bitFieldEncode : Obligations.BitFieldEncode := by
  intro s w val
  have hkind (hw : 1 ≤ w ∧ w ≤ 64) : EncodesUnsigned (.eBits w) w ∨ EncodesSigned (.eBits w) w :=
    .inl (.inr ⟨hw.1, hw.2, rfl⟩)
  refine ⟨fun hw => respond_legalWidth_of_illegal (by omega) s _, fun hw hfits => ?_,
    fun hw hfull => exec_encodesScalar_of_not_fits (hkind hw) hfull val, exec_eBits_of_legal (by decide) val s,
    exec_eBits_of_legal (by decide) val s, exec_eBits_of_legal (by decide) val s, exec_eBits_of_legal (by decide) val s⟩
  rw [← natToBits_portField]
  exact exec_encodesScalar_of_fits (hkind hw) hfits val

/-! ## The value port -/

/-- R171: the port holds a signed operand as its pattern of 64 bits, whose low bits are the pattern of any narrower
kind. -/
theorem toNat_ofInt_mod {w : Nat} (hw : w ≤ 64) (v : Int) :
    (((BitVec.ofInt 64 v).toNat % 2 ^ w : Nat) : Int) = v % 2 ^ w := by
  have hpattern : ((BitVec.ofInt 64 v).toNat : Int) = v % (2 ^ 64 : Nat) := by
    rw [BitVec.toNat_ofInt, Int.toNat_of_nonneg (Int.emod_nonneg _ (by decide))]
  rw [Int.natCast_mod, hpattern, Int.emod_emod_of_dvd _ (by exact_mod_cast Nat.pow_dvd_pow 2 hw)]
  push_cast
  rfl

/-- Settles O19: the port enters an append through its low `w` bits alone, and those of an operand in the range of its
kind are its pattern. -/
theorem portBitsAboveFieldIgnored : Obligations.PortBitsAboveFieldIgnored := by
  intro s f w hf
  have hw : w ≤ 64 := width_le_of_encodesScalar hf
  refine ⟨fun val val' hlow => ?_, fun hfits => ⟨fun v _ _ => ?_, fun v hv => ?_⟩⟩
  · have hfield : portField w val = portField w val' := hlow
    rw [exec_of_encodesScalar hf, exec_of_encodesScalar hf, appendField, hfield, appendField]
  · obtain ⟨t, hexec, hresp, hvalue⟩ := exec_encodesScalar_memValue hf hfits (BitVec.ofInt 64 v)
    exact ⟨t, hexec, hresp, hvalue ▸ toNat_ofInt_mod hw v⟩
  · obtain ⟨t, hexec, hresp, hvalue⟩ := exec_encodesScalar_memValue hf hfits (BitVec.ofNat 64 v)
    refine ⟨t, hexec, hresp, hvalue.trans ?_⟩
    rw [BitVec.toNat_ofNat, Nat.mod_mod_of_dvd _ (Nat.pow_dvd_pow 2 hw), Nat.mod_eq_of_lt hv]

/-! ## Sequences of appends -/

/-- R73: an operation that answers a next state, and then the rest. -/
theorem runOps_cons {i : Instr} {rest : List Instr} {s t u : State} {rs : List Response} (hi : exec i s = .next t)
    (hrest : runOps rest t = some (rs, u)) : runOps (i :: rest) s = some (t.resp.toList ++ rs, u) := by
  simp only [runOps, hi, hrest]

/-- R170, R183: appends that all fit leave their fields one after another behind what stood in the buffer, and each
answers `OK`. -/
theorem runOps_eBits (fields : List (Nat × Port)) (hw : ∀ p ∈ fields, 1 ≤ p.1 ∧ p.1 ≤ 64) (s : State)
    (hfits : Fits s.cfg.ecapBits (s.elen + (fields.map Prod.fst).sum)) :
    ∃ t, runOps (fields.map fun p => .eBits p.1 p.2) s = some (fields.map fun _ => ⟨.ok, 0, .absent⟩, t) ∧
      t.ebits = s.ebits ++ fields.flatMap fun p => natToBits p.1 (portField p.1 p.2) := by
  induction fields generalizing s with
  | nil => exact ⟨s, rfl, (List.append_nil _).symm⟩
  | cons p rest ih =>
    obtain ⟨⟨h1, h64⟩, hrest⟩ := List.forall_mem_cons.mp hw
    rw [List.map_cons, List.sum_cons, ← Nat.add_assoc] at hfits
    have happend := exec_encodesScalar_of_fits (.inl (.inr ⟨h1, h64, rfl⟩)) (hfits.mono (Nat.le_add_right _ _)) p.2
    obtain ⟨t, hrun, hbits⟩ := ih hrest
      ((s.setEbits (s.ebits ++ natToBits p.1 (portField p.1 p.2))).setResp ⟨.ok, 0, .absent⟩)
      (by simpa [State.elen] using hfits)
    exact ⟨t, runOps_cons happend hrun, by simp [hbits]⟩

/-- Settles O21: `E.NEW` empties the buffer (R139), and the appends then leave the fields and nothing else. -/
theorem fieldsAreConcatenated : Obligations.FieldsAreConcatenated := by
  intro s fields hw hfits
  obtain ⟨t, hrun, hbits⟩ := runOps_eBits fields hw ((s.setEbits []).setResp ⟨.ok, 0, .absent⟩)
    (by simpa [State.elen] using hfits)
  refine ⟨_, t, runOps_cons rfl hrun, ?_, ?_, ?_⟩
  · simp
  · simp [State.elen, hbits, List.length_flatMap]
  · simpa [natToBits_portField] using hbits

end Sys2Proof.Machine
end

section
/-! PROOFS. 43_variable_decode.md R190 to R200: the elements of a sequence as fields of the buffer, the reads of the
variable-width kinds, and what they read back of an append. -/

namespace Sys2Proof.Machine

/-! ## Sequences in a buffer -/

/-- The elements of `l`, each of the number `value` gives it, stand from offset `off` on as fields of `w` bits, one
after another (R192, R193). -/
def HoldsAt {α : Type} (w : Nat) (value : α → Nat) (bits : List Bool) (off : Nat) (l : List α) : Prop :=
  ∀ k a, l[k]? = some a → value a = memValue bits (off + w * k) w

section
variable {α : Type} {w : Nat} {value : α → Nat} {bits : List Bool} {off : Nat}

theorem HoldsAt.head {a : α} {l : List α} (h : HoldsAt w value bits off (a :: l)) : value a = memValue bits off w :=
  h 0 a rfl

theorem HoldsAt.tail {a : α} {l : List α} (h : HoldsAt w value bits off (a :: l)) :
    HoldsAt w value bits (off + w) l := by
  intro k b hb
  have hfield := h (k + 1) b hb
  rwa [Nat.mul_succ, Nat.add_comm (w * k), ← Nat.add_assoc] at hfield

/-- A place in a buffer and a count determine the sequence. -/
theorem HoldsAt.unique (hvalue : Function.Injective value) {l m : List α} (hl : HoldsAt w value bits off l)
    (hm : HoldsAt w value bits off m) (hlen : l.length = m.length) : l = m := by
  induction l generalizing m off with
  | nil => exact (List.length_eq_zero_iff.mp hlen.symm).symm
  | cons a l ih =>
    cases m with
    | nil => cases hlen
    | cons b m => rw [hvalue (hl.head.trans hm.head.symm), ih hl.tail hm.tail (Nat.succ.inj hlen)]

end

/-- R192: the bytes a read returns are the fields at their places. -/
theorem holdsAt_readBytes {bits : List Bool} {off n : Nat} (h : off + 8 * n ≤ bits.length) :
    HoldsAt 8 BitVec.toNat bits off (readBytes bits off n) :=
  fun _ _ => toNat_of_getElem?_readBytes h

/-- R193: the words a read returns are the fields at their places. -/
theorem holdsAt_readWords {bits : List Bool} {off n : Nat} (h : off + 16 * n ≤ bits.length) :
    HoldsAt 16 BitVec.toNat bits off (readWords bits off n) := by
  intro k b hb
  have hk : k < n := by simpa using (List.getElem?_eq_some_iff.mp hb).1
  have hword : BitVec.ofNat 16 (memRead bits (off + 16 * k) 16) = b := by
    simpa [readWords, List.getElem?_range hk] using hb
  rw [← hword, BitVec.toNat_ofNat, Nat.mod_eq_of_lt (memRead_lt _ _ 16), memRead_eq_memValue _ _ _ (by omega)]

/-- R15: the value of a field of one bit. -/
theorem memValue_one {bits : List Bool} {off : Nat} {b : Bool} (h : bits[off]? = some b) :
    memValue bits off 1 = b.toNat := by
  simp [memValue, bitAt, h]

/-- R62, R98: elements written one after another hold their places, whatever stands before and after them. -/
theorem holdsAt_flatMap {w : Nat} (pre more : List Bool) (l : List (BitVec w)) :
    HoldsAt w BitVec.toNat (pre ++ l.flatMap (fun b => natToBits w b.toNat) ++ more) pre.length l := by
  induction l generalizing pre with
  | nil => intro k b hb; cases hb
  | cons a l ih =>
    intro k b hb
    cases k with
    | zero =>
      obtain rfl : a = b := by simpa using hb
      have hfield := memValue_middle pre (l.flatMap (fun b => natToBits w b.toNat) ++ more) w a.toNat
      rw [Nat.mod_eq_of_lt a.isLt] at hfield
      simpa using hfield.symm
    | succ k =>
      have hrest := ih (pre ++ natToBits w a.toNat) k b hb
      rw [List.length_append, length_natToBits, Nat.add_assoc, Nat.add_comm w, ← Nat.mul_succ] at hrest
      simpa using hrest

/-! ## The answers of an array read -/

section
variable {n : Nat} {s : State}

/-- R192: the bits are there. -/
theorem exec_dArr8_of_le (h : s.dcur + 8 * n ≤ s.dlen) :
    exec (.dArr8 n) s =
      .next ((s.setDcur (s.dcur + 8 * n)).setResp ⟨.ok, 0, .bytes (readBytes s.dbits s.dcur n)⟩) := by
  change execDArr8 n s = _
  rw [execDArr8, readWhole_of_le h, Ret.respond_ok]

/-- R190: they are not. -/
theorem exec_dArr8_of_lt (h : s.dlen < s.dcur + 8 * n) :
    exec (.dArr8 n) s = .next (s.setResp ⟨.truncatedInput, s.dcur + 8 * n - s.dlen, .absent⟩) := by
  change execDArr8 n s = _
  rw [execDArr8, readWhole_of_lt h, Ret.respond_raised]

/-- R194: a string read is a byte array read. -/
theorem exec_dStr (n : Nat) (s : State) : exec (.dStr n) s = exec (.dArr8 n) s := rfl

/-- R193: the bits are there. -/
theorem exec_dArr16_of_le (h : s.dcur + 16 * n ≤ s.dlen) :
    exec (.dArr16 n) s =
      .next ((s.setDcur (s.dcur + 16 * n)).setResp ⟨.ok, 0, .words (readWords s.dbits s.dcur n)⟩) := by
  change execDArr16 n s = _
  rw [execDArr16, readWhole_of_le h, Ret.respond_ok]

/-- R190: they are not. -/
theorem exec_dArr16_of_lt (h : s.dlen < s.dcur + 16 * n) :
    exec (.dArr16 n) s = .next (s.setResp ⟨.truncatedInput, s.dcur + 16 * n - s.dlen, .absent⟩) := by
  change execDArr16 n s = _
  rw [execDArr16, readWhole_of_lt h, Ret.respond_raised]

/-- R196: data bits and padding are there. -/
theorem exec_dBitv_of_le (h : s.dcur + ceil8 n ≤ s.dlen) :
    exec (.dBitv n) s =
      .next ((s.setDcur (s.dcur + ceil8 n)).setResp ⟨.ok, 0, .bits ((s.dbits.drop s.dcur).take n)⟩) := by
  rw [exec_dBitv, bitvAnswer, if_neg (Nat.not_lt.mpr h), State.answered]

/-- R196: they are not. -/
theorem exec_dBitv_of_lt (h : s.dlen < s.dcur + ceil8 n) :
    exec (.dBitv n) s = .next (s.setResp ⟨.truncatedInput, s.dcur + ceil8 n - s.dlen, .absent⟩) := by
  rw [exec_dBitv, bitvAnswer, if_pos h]
  rfl

end

/-! ## The statements about the reads -/

/-- Settles O22: the two answers of each read; the elements it returns are the fields at their places. -/
theorem arrayDecodeReturnsElements : Obligations.ArrayDecodeReturnsElements := by
  refine fun s n => ⟨fun i hi => ?_, fun h => ?_, exec_dArr16_of_lt⟩
  · have hexec : exec i s = exec (.dArr8 n) s := by
      rcases hi with rfl | rfl
      · rfl
      · exact exec_dStr n s
    rw [hexec]
    exact ⟨fun h => ⟨_, exec_dArr8_of_le h, length_readBytes _ _ _, holdsAt_readBytes h⟩, exec_dArr8_of_lt⟩
  · exact ⟨_, exec_dArr16_of_le h, length_readWords _ _ _, holdsAt_readWords h⟩

/-- R15: the padded length is the one multiple of 8 that is at least `n` and less than 8 above it. -/
theorem eq_ceil8 {n need : Nat} (hle : n ≤ need) (hlt : need < n + 8) (hmod : need % 8 = 0) : need = ceil8 n := by
  unfold ceil8
  omega

/-- Settles O23: the bits returned are those of the buffer from the cursor on. -/
theorem bitVectorDecodeReturnsLogicalBits : Obligations.BitVectorDecodeReturnsLogicalBits := by
  intro s n need hle hlt hmod
  obtain rfl := eq_ceil8 hle hlt hmod
  refine ⟨fun h => ⟨_, exec_dBitv_of_le h, List.length_take_of_le ?_, fun i hi => ?_⟩, exec_dBitv_of_lt⟩
  · have hbits : s.dcur + ceil8 n ≤ s.dbits.length := h
    rw [List.length_drop]
    omega
  · rw [List.getElem?_take_of_lt hi, List.getElem?_drop]

/-- Settles O24: the four cases of `readOpaque` are the four clauses, and exclude one another. -/
theorem opaqueDecodeReadsToEnd : Obligations.OpaqueDecodeReadsToEnd := by
  intro s endOff
  have hexec : exec (.dOpaque endOff) s =
    ((readOpaque endOff s).andThen fun bytes t => .ok (.bytes bytes) t).respond := rfl
  rw [hexec]
  rcases readOpaque_cases endOff s with ⟨hback, e⟩ | ⟨hle, hpast, e⟩ | ⟨hle, hend, hodd, e⟩ | ⟨hle, hend, hwhole, e⟩ <;>
    rw [e]
  · exact ⟨fun _ => rfl, by omega, by omega, by omega⟩
  · exact ⟨by omega, fun _ _ => rfl, by omega, by omega⟩
  · exact ⟨by omega, by omega, fun _ _ _ => rfl, by omega⟩
  · refine ⟨by omega, by omega, by omega, fun _ _ _ => ⟨_, rfl, length_readBytes _ _ _, holdsAt_readBytes ?_⟩⟩
    have hinside : endOff ≤ s.dbits.length := hend
    omega

/-! ## Element by element -/

/-- R73, R150: reads of one unsigned kind, one after another, return the elements that stand at the cursor. -/
theorem runOps_replicate {α : Type} {i : Instr} {w : Nat} (hi : DecodesUnsigned i w) {value : α → Nat} (l : List α)
    (s : State) (hle : s.dcur + w * l.length ≤ s.dlen) (hl : HoldsAt w value s.dbits s.dcur l) :
    ∃ u, runOps (List.replicate l.length i) s = some (l.map fun a => ⟨.ok, 0, .uval (value a)⟩, u) ∧
      u.dcur = s.dcur + w * l.length := by
  induction l generalizing s with
  | nil => exact ⟨s, rfl, rfl⟩
  | cons a l ih =>
    rw [List.length_cons, Nat.mul_succ, Nat.add_comm (w * l.length), ← Nat.add_assoc] at hle ⊢
    have hread : exec i s = .next ((s.setDcur (s.dcur + w)).setResp ⟨.ok, 0, .uval (value a)⟩) := by
      rw [exec_of_decodesUnsigned hi, readUnsigned_of_le (Nat.le_of_add_right_le hle), ← hl.head, Ret.respond_ok]
    obtain ⟨u, hrun, hcur⟩ := ih ((s.setDcur (s.dcur + w)).setResp ⟨.ok, 0, .uval (value a)⟩) hle hl.tail
    exact ⟨u, runOps_cons hread hrun, hcur⟩

/-- Settles O28: what an array read returns are the fields at the cursor (O22, O23), which is what reads of the elements
return. -/
theorem arrayDecodeIsElementwise : Obligations.ArrayDecodeIsElementwise := by
  intro s n
  obtain ⟨hbytes, hwords, -⟩ := arrayDecodeReturnsElements s n
  refine ⟨fun h => ?_, fun h => ?_, fun h => ?_⟩
  · obtain ⟨bs, hexec, rfl, hbs⟩ := (hbytes _ (.inl rfl)).1 h
    obtain ⟨u, hrun, hcur⟩ := runOps_replicate (i := .dU8) (.inl (by simp)) bs s h hbs
    exact ⟨bs, _, u, hexec, rfl, hrun, hcur⟩
  · obtain ⟨ws, hexec, rfl, hws⟩ := hwords h
    obtain ⟨u, hrun, hcur⟩ := runOps_replicate (i := .dU16) (.inl (by simp)) ws s h hws
    exact ⟨ws, _, u, hexec, rfl, hrun, hcur⟩
  · obtain ⟨bits, hexec, rfl, hbits⟩ := (bitVectorDecodeReturnsLogicalBits s n (ceil8 n) (le_ceil8 n) (ceil8_lt n)
      (Nat.mul_mod_right 8 _)).1 h
    have hpad := le_ceil8 bits.length
    have hholds : HoldsAt 1 Bool.toNat s.dbits s.dcur bits := fun k b hb => by
      rw [Nat.one_mul, memValue_one ((hbits k (List.getElem?_eq_some_iff.mp hb).1).symm.trans hb)]
    obtain ⟨u, hrun, hcur⟩ := runOps_replicate (i := .dBool) (.inl (by simp)) bits s (by omega) hholds
    exact ⟨bits, _, u, hexec, rfl, hrun, show _ = s.dcur + ceil8 bits.length by omega⟩

/-! ## Round trip -/

/-- R210: the bits fit. -/
theorem appendBits_of_fits {bits : List Bool} {s : State} (h : Fits s.cfg.ecapBits (s.elen + bits.length)) :
    appendBits bits s = .ok .absent (s.setEbits (s.ebits ++ bits)) := by
  rw [appendBits, (exceeds_eq_false_iff _ _).mpr h]
  rfl

/-- R200: wherever `wire` stands in the decode buffer, the operation `j` issued there returns `r` and passes `wire`. -/
def ReadsBack (j : Instr) (wire : List Bool) (r : Results) : Prop :=
  ∀ (s : State) (pre more : List Bool), s.dbits = pre ++ wire ++ more → s.dcur = pre.length →
    exec j s = .next ((s.setDcur (s.dcur + wire.length)).setResp ⟨.ok, 0, r⟩)

/-- What stands in the buffer behind the cursor is there to be read. -/
theorem le_dlen_of_dbits {s : State} {pre wire more : List Bool} (hbits : s.dbits = pre ++ wire ++ more)
    (hcur : s.dcur = pre.length) : s.dcur + wire.length ≤ s.dlen := by
  simp [State.dlen, hbits, hcur]

theorem holdsAt_of_dbits {w : Nat} {s : State} {l : List (BitVec w)} {pre more : List Bool}
    (hbits : s.dbits = pre ++ l.flatMap (fun b => natToBits w b.toNat) ++ more) (hcur : s.dcur = pre.length) :
    HoldsAt w BitVec.toNat s.dbits s.dcur l := by
  rw [hbits, hcur]
  exact holdsAt_flatMap pre more l

theorem readsBack_dArr8 (l : List Byte) : ReadsBack (.dArr8 l.length) (bytesToBits l) (.bytes l) := by
  intro s pre more hbits hcur
  have hle := le_dlen_of_dbits hbits hcur
  rw [length_bytesToBits] at hle ⊢
  have hread : readBytes s.dbits s.dcur l.length = l :=
    (holdsAt_readBytes hle).unique BitVec.toNat_injective (holdsAt_of_dbits hbits hcur) (length_readBytes _ _ _)
  rw [exec_dArr8_of_le hle, hread]

theorem readsBack_dStr (l : List Byte) : ReadsBack (.dStr l.length) (bytesToBits l) (.bytes l) := by
  intro s pre more hbits hcur
  rw [exec_dStr]
  exact readsBack_dArr8 l s pre more hbits hcur

theorem readsBack_dArr16 (l : List Word) : ReadsBack (.dArr16 l.length) (wordsToBits l) (.words l) := by
  intro s pre more hbits hcur
  have hle := le_dlen_of_dbits hbits hcur
  rw [length_wordsToBits] at hle ⊢
  have hread : readWords s.dbits s.dcur l.length = l :=
    (holdsAt_readWords hle).unique BitVec.toNat_injective (holdsAt_of_dbits hbits hcur) (length_readWords _ _ _)
  rw [exec_dArr16_of_le hle, hread]

theorem length_append_padding (l : List Bool) : (l ++ padding l.length).length = ceil8 l.length := by
  rw [List.length_append, length_padding]

theorem readsBack_dBitv (l : List Bool) : ReadsBack (.dBitv l.length) (l ++ padding l.length) (.bits l) := by
  intro s pre more hbits hcur
  have hle := le_dlen_of_dbits hbits hcur
  rw [length_append_padding] at hle ⊢
  have hlogical : (s.dbits.drop s.dcur).take l.length = l := by
    simp [hbits, hcur]
  rw [exec_dBitv_of_le hle, hlogical]

/-- R200: an append and a read that agree on the bits on the wire. What is appended stays in its place (R170) and gets
there in the decode buffer as well. -/
theorem roundTrip_of_readsBack {i j : Instr} {wire : List Bool} {r : Results} {s : State}
    (happend : exec i s = (appendBits wire s).respond) (hread : ReadsBack j wire r)
    (hfits : Fits s.cfg.ecapBits (s.elen + wire.length)) :
    ∃ t, exec i s = .next t ∧
      ∀ (u : State) (more : List Bool), u.ebits = t.ebits ++ more → u.elen % 8 = 0 → Fits u.cfg.dcapBits u.elen →
        ∃ (bs : List Byte) (u1 u2 u3 u4 : State), exec .eRead u = .next u1 ∧ u1.resp = okResp (.bytes bs) ∧
          exec (.dLoad bs) u1 = .next u2 ∧ exec (.dSeek s.elen) u2 = .next u3 ∧ exec j u3 = .next u4 ∧
          u4.resp = okResp r ∧ u4.dcur = s.elen + wire.length := by
  rw [appendBits_of_fits hfits, Ret.respond_ok] at happend
  refine ⟨_, happend, fun u more hu haligned hcap => ?_⟩
  have hoff : s.elen ≤ u.elen := by
    simp [State.elen, hu]
  obtain ⟨bs, u1, u2, u3, heread, hbytes, hload, hseek, hbits, hcur⟩ := exec_eRead_dLoad_dSeek haligned hcap hoff
  exact ⟨bs, u1, u2, u3, _, heread, hbytes, hload, hseek, hread u3 s.ebits more (hbits.trans hu) hcur, rfl,
    congrArg (· + wire.length) hcur⟩

/-- Settles O27: each of the four kinds reads back the bits it appends. -/
theorem sequenceRoundTrip : Obligations.SequenceRoundTrip := by
  intro s i j r width hkind hfits
  rcases hkind with ⟨l, rfl, rfl, rfl, rfl⟩ | ⟨l, rfl, rfl, rfl, rfl⟩ | ⟨l, rfl, rfl, rfl, rfl⟩ | ⟨l, rfl, rfl, rfl, rfl⟩
  · rw [← length_bytesToBits] at hfits ⊢
    exact roundTrip_of_readsBack rfl (readsBack_dArr8 l) hfits
  · rw [← length_bytesToBits] at hfits ⊢
    exact roundTrip_of_readsBack rfl (readsBack_dStr l) hfits
  · rw [← length_wordsToBits] at hfits ⊢
    exact roundTrip_of_readsBack rfl (readsBack_dArr16 l) hfits
  · rw [← length_append_padding] at hfits ⊢
    exact roundTrip_of_readsBack rfl (readsBack_dBitv l) hfits

end Sys2Proof.Machine
end

section
/-! PROOFS. 44_variable_encode.md R210 to R215: the two answers of a variable-width append, the elements it leaves in
the buffer, and the same bits from appends of the single elements. -/

namespace Sys2Proof.Machine

/-! ## The answers of an append -/

section
variable {bits : List Bool} {s : State}

/-- R210: the bits fit. -/
theorem respond_appendBits_of_fits (h : Fits s.cfg.ecapBits (s.elen + bits.length)) :
    (appendBits bits s).respond = .next ((s.setEbits (s.ebits ++ bits)).setResp ⟨.ok, 0, .absent⟩) := by
  rw [appendBits_of_fits h, Ret.respond_ok]

/-- R210: the bits do not fit. -/
theorem respond_appendBits_of_not_fits (h : ¬Fits s.cfg.ecapBits (s.elen + bits.length)) :
    (appendBits bits s).respond = .next (s.setResp ⟨.overflow, s.elen + bits.length, .absent⟩) := by
  rw [appendBits, (exceeds_eq_true_iff _ _).mpr h]
  rfl

end

/-! ## The elements in the buffer -/

theorem length_flatMap_natToBits {w : Nat} (l : List (BitVec w)) :
    (l.flatMap fun b => natToBits w b.toNat).length = w * l.length := by
  simp [List.length_flatMap, Nat.mul_comm]

/-- R210, R211, R212: an append of elements of `w` bits each. The elements stand behind the old contents at the places
`holdsAt_flatMap` gives them. -/
theorem exec_appendElements {w : Nat} {i : Instr} {l : List (BitVec w)} {s : State}
    (happend : exec i s = (appendBits (l.flatMap fun b => natToBits w b.toNat) s).respond) :
    (Fits s.cfg.ecapBits (s.elen + w * l.length) →
      ∃ t, exec i s = .next t ∧ t = { s with ebits := t.ebits, resp := okResp .absent } ∧
        t.elen = s.elen + w * l.length ∧ t.ebits.take s.elen = s.ebits ∧
        ∀ k b, l[k]? = some b → memValue t.ebits (s.elen + w * k) w = b.toNat) ∧
    (¬Fits s.cfg.ecapBits (s.elen + w * l.length) →
      exec i s = .next { s with resp := failResp .overflow (s.elen + w * l.length) }) := by
  rw [happend, ← length_flatMap_natToBits]
  refine ⟨fun hfits => ⟨_, respond_appendBits_of_fits hfits, rfl, List.length_append, List.take_left, fun k b hb => ?_⟩,
    respond_appendBits_of_not_fits⟩
  have hplaces := holdsAt_flatMap s.ebits [] l
  rw [List.append_nil] at hplaces
  exact (hplaces k b hb).symm

/-- Settles O25: bytes and words are elements of 8 and of 16 bits, and a string is appended as a byte array is. -/
theorem arrayEncodeAppendsElements : Obligations.ArrayEncodeAppendsElements := by
  refine fun s => ⟨fun bs i hi => exec_appendElements (l := bs) ?_, fun ws => exec_appendElements (l := ws) rfl⟩
  rcases hi with rfl | rfl <;> rfl

/-- Settles O26: the padding that `E.BITV` appends fills up to the padded length (R15). -/
theorem bitVectorEncodePadsWithZeros : Obligations.BitVectorEncodePadsWithZeros := by
  intro s bits need hle hlt hmod
  obtain rfl := eq_ceil8 hle hlt hmod
  have happend : exec (.eBitv bits) s = (appendBits (bits ++ padding bits.length) s).respond := rfl
  rw [happend, List.append_assoc, ← padding, ← length_append_padding]
  exact ⟨respond_appendBits_of_fits, respond_appendBits_of_not_fits⟩

/-! ## Element by element -/

/-- R73: operations that do the same one by one do the same in sequence. -/
theorem runOps_map_congr {α : Type} {f g : α → Instr} (h : ∀ a s, exec (f a) s = exec (g a) s) (l : List α)
    (s : State) : runOps (l.map f) s = runOps (l.map g) s := by
  induction l generalizing s with
  | nil => rfl
  | cons a l ih => simp only [List.map_cons, runOps, h, ih]

theorem one_le_width_of_encodesScalar {f : Port → Instr} {w : Nat} (hf : EncodesUnsigned f w ∨ EncodesSigned f w) :
    1 ≤ w := by
  simp only [EncodesUnsigned, EncodesSigned, List.mem_cons, Prod.mk.injEq, List.not_mem_nil, or_false] at hf
  omega

/-- R170, R172: appends of one scalar kind leave the fields that `E.BITS` of its width leaves. -/
theorem runOps_encodesScalar {α : Type} {f : Port → Instr} {w : Nat} (hf : EncodesUnsigned f w ∨ EncodesSigned f w)
    (port : α → Port) (l : List α) (s : State) (hfits : Fits s.cfg.ecapBits (s.elen + w * l.length)) :
    ∃ rs u, runOps (l.map fun a => f (port a)) s = some (rs, u) ∧
      u.ebits = s.ebits ++ l.flatMap fun a => natToBits w (portField w (port a)) := by
  have hw : 1 ≤ w ∧ w ≤ 64 := ⟨one_le_width_of_encodesScalar hf, width_le_of_encodesScalar hf⟩
  have hsame (a : α) (t : State) : exec (f (port a)) t = exec (.eBits w (port a)) t :=
    (exec_of_encodesScalar hf _ t).trans (exec_eBits_of_legal hw _ t).symm
  obtain ⟨u, hrun, hbits⟩ := runOps_eBits (l.map fun a => (w, port a)) (by simp [hw]) s
    (by simpa [Function.comp_def, Nat.mul_comm] using hfits)
  rw [List.map_map] at hrun
  exact ⟨_, u, (runOps_map_congr hsame l s).trans hrun, by rw [hbits, List.flatMap_map]⟩

/-- R215: an append whose bits are the fields of its elements. -/
theorem elementwise_of_appendBits {α : Type} {i : Instr} {f : Port → Instr} {w : Nat}
    (hf : EncodesUnsigned f w ∨ EncodesSigned f w) (port : α → Port) {l : List α} {wire : List Bool} {s : State}
    (happend : exec i s = (appendBits wire s).respond)
    (hwire : l.flatMap (fun a => natToBits w (portField w (port a))) = wire)
    (hfits : Fits s.cfg.ecapBits (s.elen + w * l.length)) :
    ∃ t rs u, exec i s = .next t ∧ runOps (l.map fun a => f (port a)) s = some (rs, u) ∧ u.ebits = t.ebits := by
  obtain ⟨rs, u, hrun, hbits⟩ := runOps_encodesScalar hf port l s hfits
  have hlen : wire.length = w * l.length := by
    simp [← hwire, List.length_flatMap, Nat.mul_comm]
  rw [← hlen] at hfits
  rw [hwire] at hbits
  exact ⟨_, rs, u, happend.trans (respond_appendBits_of_fits hfits), hrun, hbits⟩

/-- R171: an element put on the value port is its own field. -/
theorem portField_setWidth {w : Nat} (hw : w ≤ 64) (b : BitVec w) : portField w (b.setWidth 64) = b.toNat := by
  rw [portField, BitVec.toNat_setWidth_of_le hw, Nat.mod_eq_of_lt b.isLt]

theorem flatMap_portField_setWidth {w : Nat} (hw : w ≤ 64) (l : List (BitVec w)) :
    l.flatMap (fun b => natToBits w (portField w (b.setWidth 64))) = l.flatMap fun b => natToBits w b.toNat := by
  simp only [portField_setWidth hw]

/-- R172: the field of a bit put on the value port is the bit. -/
theorem natToBits_portField_bool (b : Bool) : natToBits 1 (portField 1 (BitVec.ofNat 64 b.toNat)) = [b] := by
  cases b <;> rfl

/-- Settles O29: the bytes and words of an array are the fields of `E.U8` and `E.U16`; a bit-vector and its padding are
one sequence of fields of `E.BOOL`. -/
theorem arrayEncodeIsElementwise : Obligations.ArrayEncodeIsElementwise := by
  refine fun s => ⟨fun bs hfits => ?_, fun ws hfits => ?_, fun bits hfits => ?_⟩
  · exact elementwise_of_appendBits (f := .eU8) (.inl (.inl (by simp))) _ rfl
      (flatMap_portField_setWidth (by decide) bs) hfits
  · exact elementwise_of_appendBits (f := .eU16) (.inl (.inl (by simp))) _ rfl
      (flatMap_portField_setWidth (by decide) ws) hfits
  · have hops : bits.map (fun b => .eBool (BitVec.ofNat 64 b.toNat)) ++
        List.replicate (ceil8 bits.length - bits.length) (.eBool 0) =
          (bits ++ padding bits.length).map fun b => Instr.eBool (BitVec.ofNat 64 b.toNat) := by
      rw [List.map_append, padding, List.map_replicate]
      rfl
    rw [hops]
    refine elementwise_of_appendBits (f := .eBool) (w := 1) (.inl (.inl (by simp))) _ rfl ?_ ?_
    · simp only [natToBits_portField_bool, List.flatMap_singleton']
    · rwa [length_append_padding, Nat.one_mul]

end Sys2Proof.Machine
end

section
/-! PROOFS. 45_envelope_decode.md R230 to R243, R248: the answers of the envelope decode operations. -/

namespace Sys2Proof.Machine

/-! ## Declared ends -/

theorem distance_of_add_eq {a b d : Nat} (h : a + d = b ∨ b + d = a) : distance b a = d := by
  unfold distance
  omega

section
variable {endOff : Nat} {s : State}

theorem requireAt_of_eq (h : s.dcur = endOff) (st : Status) : requireAt endOff st s = .ok .absent s := by
  rcases requireAt_cases endOff st s with ⟨_, e⟩ | ⟨hne, _⟩
  · exact e
  · exact absurd h hne

theorem requireAt_of_distance {d : Nat} (hpos : 0 < d) (h : s.dcur + d = endOff ∨ endOff + d = s.dcur) (st : Status) :
    requireAt endOff st s = .raised st d s := by
  rcases requireAt_cases endOff st s with ⟨hat, _⟩ | ⟨_, e⟩
  · omega
  · rw [e, distance_of_add_eq h]

end

/-- Settles O34: one check of the cursor stands behind both operations. -/
theorem endChecksCompareCursor : Obligations.EndChecksCompareCursor := by
  intro s endOff
  have hmsg : exec (.dMsgend endOff) s = (requireAt endOff .malformedMessage s).respond := rfl
  have hpar : exec (.dParend endOff) s = (requireAt endOff .malformedParameter s).respond := rfl
  rw [hmsg, hpar]
  refine ⟨fun hat => ?_, fun d hpos hd => ?_⟩
  · rw [requireAt_of_eq hat, requireAt_of_eq hat]
    exact ⟨rfl, rfl⟩
  · rw [requireAt_of_distance hpos hd, requireAt_of_distance hpos hd]
    exact ⟨rfl, rfl⟩

/-! ## Message header -/

section
variable {s : State}

theorem type_headerAt (h : s.dcur + 16 ≤ s.dlen) :
    (headerAt s.dbits s.dcur).type = memValue s.dbits (s.dcur + 6) 10 :=
  memRead_eq_memValue _ _ _ h

/-- R90: inside the buffer each field of the header is the sum of R15. -/
theorem headerAt_eq (h : s.dcur + 80 ≤ s.dlen) :
    headerAt s.dbits s.dcur =
      ⟨memValue s.dbits (s.dcur + 3) 3, memValue s.dbits (s.dcur + 6) 10, memValue s.dbits (s.dcur + 16) 32,
        memValue s.dbits (s.dcur + 48) 32⟩ := by
  have hfield {off n : Nat} (hoff : off + n ≤ s.dcur + 80) : memRead s.dbits off n = memValue s.dbits off n :=
    memRead_eq_memValue _ _ _ (hoff.trans h)
  rw [headerAt, hfield (by omega), hfield (by omega), hfield (by omega), hfield (by omega)]

/-- R232, R233: a message of another type leaves nothing but the response. -/
theorem exec_dMsghdr_of_mismatch {exp : Nat} (hexp : exp ≤ 1023) (h16 : s.dcur + 16 ≤ s.dlen)
    (hne : memValue s.dbits (s.dcur + 6) 10 ≠ exp) :
    exec (.dMsghdr exp) s =
      .next { s with resp := failResp .typeMismatch (memValue s.dbits (s.dcur + 6) 10) } := by
  rw [exec_dMsghdr, msghdrAnswer, if_neg (Nat.not_lt.mpr hexp), if_neg (Nat.not_lt.mpr h16), type_headerAt h16,
    if_pos hne]
  rfl

/-- R233: a whole message of the expected type. -/
theorem exec_dMsghdr_of_header {h : Header} (hat : headerAt s.dbits s.dcur = h) (htype : h.type ≤ 1023)
    (hten : 10 ≤ h.length) (hend : s.dcur + 8 * h.length ≤ s.dlen) :
    exec (.dMsghdr h.type) s =
      .next { s with
        dcur := s.dcur + 80
        resp := okResp (.msgHeader h.ver h.type h.length h.id s.dcur (s.dcur + 8 * h.length)) } := by
  rw [exec_dMsghdr, hat, msghdrAnswer, if_neg (by omega), if_neg (by omega), if_neg (not_not.mpr rfl),
    if_neg (by omega), if_neg (by omega), if_neg (by omega), if_neg (by omega)]
  rfl

end

/-- Settles O30: the clauses are the branches of `msghdrAnswer` in their order, its header read as the fields of R90. -/
theorem messageHeaderDecode : Obligations.MessageHeaderDecode := by
  rintro s exp _ ver type length id rfl hver htype hlength hid
  have hread16 (h16 : s.dcur + 16 ≤ s.dlen) : (headerAt s.dbits s.dcur).type = type := by
    rw [type_headerAt h16, htype]
  have hread80 (h80 : s.dcur + 80 ≤ s.dlen) : headerAt s.dbits s.dcur = ⟨ver, type, length, id⟩ := by
    rw [headerAt_eq h80, hver, htype, hlength, hid]
  refine ⟨fun hexp => ?_, fun hexp h16 => ?_, fun hexp h16 hne => ?_, fun hexp h16 hmatch h48 => ?_,
    fun hexp h48 hmatch h80 => ?_, fun hexp h80 hmatch hshort => ?_, fun hexp h80 hmatch hten hend => ?_,
    fun hexp hmatch hten hend => ?_⟩
  · rw [exec_dMsghdr, msghdrAnswer, if_pos hexp]
    rfl
  · rw [exec_dMsghdr, msghdrAnswer, if_neg (by omega), if_pos h16]
    rfl
  · rw [htype] at hne ⊢
    exact exec_dMsghdr_of_mismatch hexp h16 hne
  · rw [exec_dMsghdr, msghdrAnswer, if_neg (by omega), if_neg (by omega), hread16 h16, if_neg (not_not.mpr hmatch),
      if_pos h48]
    rfl
  · rw [exec_dMsghdr, msghdrAnswer, if_neg (by omega), if_neg (by omega), hread16 (by omega),
      if_neg (not_not.mpr hmatch), if_neg (by omega), if_pos h80]
    rfl
  · rw [exec_dMsghdr, hread80 h80, msghdrAnswer, if_neg (by omega), if_neg (by omega), if_neg (not_not.mpr hmatch),
      if_neg (by omega), if_neg (by omega), if_pos hshort]
    rfl
  · rw [exec_dMsghdr, hread80 h80, msghdrAnswer, if_neg (by omega), if_neg (by omega), if_neg (not_not.mpr hmatch),
      if_neg (by omega), if_neg (by omega), if_neg (Nat.not_lt.mpr hten), if_pos hend]
    rfl
  · obtain rfl := hmatch
    exact exec_dMsghdr_of_header (hread80 (by omega)) hexp hten hend

/-! ## Probes -/

/-- R21: no response enters the next one. -/
theorem exec_dMsghdr_ignores_resp (exp : Nat) (s : State) (resp : Option Response) :
    exec (.dMsghdr exp) { s with resp := resp } = exec (.dMsghdr exp) s := by
  rw [exec_dMsghdr, exec_dMsghdr]
  rfl

/-- R248: probes for other types answer alike and change the response alone. -/
theorem runOps_dMsghdr_of_mismatch {s : State} (h16 : s.dcur + 16 ≤ s.dlen) (wrong : List Nat)
    (hwrong : ∀ e ∈ wrong, e ≤ 1023 ∧ e ≠ memValue s.dbits (s.dcur + 6) 10) :
    ∃ resp, runOps (wrong.map .dMsghdr) s =
      some (wrong.map fun _ => ⟨.typeMismatch, memValue s.dbits (s.dcur + 6) 10, .absent⟩,
        { s with resp := resp }) := by
  induction wrong generalizing s with
  | nil => exact ⟨s.resp, rfl⟩
  | cons e wrong ih =>
    obtain ⟨⟨he, hne⟩, hrest⟩ := List.forall_mem_cons.mp hwrong
    obtain ⟨resp, hrun⟩ := ih
      (s := { s with resp := failResp .typeMismatch (memValue s.dbits (s.dcur + 6) 10) }) h16 hrest
    exact ⟨resp, runOps_cons (exec_dMsghdr_of_mismatch he h16 hne.symm) hrun⟩

/-- Settles O31: the wrong probes leave a state that differs in the response alone, which no probe reads. -/
theorem probesLeaveNoTrace : Obligations.ProbesLeaveNoTrace := by
  intro s wrong exp type h16 htype hwrong
  rw [htype] at hwrong ⊢
  obtain ⟨resp, hrun⟩ := runOps_dMsghdr_of_mismatch h16 wrong hwrong
  exact ⟨_, _, hrun, rfl, rfl, exec_dMsghdr_ignores_resp exp s resp⟩

/-! ## Parameter header -/

/-- What `D.PARHDR` answers on a TV header with the cursor at `cur` in a buffer of `len` bits, where `valueLen` is the
entry of `TV_LEN` (R235, R236, R240). -/
def tvhdrAnswer (cur len type : Nat) (valueLen : Option Nat) : Nat × Response :=
  if len < cur + 8 then (cur, ⟨.truncatedInput, cur + 8 - len, .absent⟩)
  else match valueLen with
    | none => (cur + 8, ⟨.malformedParameter, type, .absent⟩)
    | some n => (cur + 8, ⟨.ok, 0, .tvHeader type cur (cur + 8 + n)⟩)

theorem exec_dParhdr_tv {s : State} (hsel : s.dbits[s.dcur]? = some true) :
    exec .dParhdr s = .next (s.answered
      (tvhdrAnswer s.dcur s.dlen (memRead s.dbits (s.dcur + 1) 7)
        (tvLenOf s.cfg (memRead s.dbits (s.dcur + 1) 7)))) := by
  have hone : s.dcur < s.dlen := (List.getElem?_eq_some_iff.mp hsel).1
  have hflag : memRead s.dbits s.dcur 1 = 1 := by
    rw [memRead_eq_memValue _ _ _ hone, memValue_one hsel]
    rfl
  change execDParhdr s = _
  unfold execDParhdr tvhdrAnswer
  simp only [if_neg (Nat.not_lt.mpr hone), if_pos hflag]
  by_cases h8 : s.dlen < s.dcur + 8
  · rw [readField_of_lt h8, if_pos h8]
    rfl
  have htype : slice (memRead s.dbits s.dcur 8) 6 0 = memRead s.dbits (s.dcur + 1) 7 :=
    slice_memRead _ _ 8 6 0 (Nat.not_lt.mp h8) (by decide) (by decide)
  rw [readField_of_le (Nat.not_lt.mp h8), if_neg h8, Ret.andThen_ok, htype, State.setDcur_cfg]
  cases tvLenOf s.cfg (memRead s.dbits (s.dcur + 1) 7) <;> rfl

/-- R235: not even the bit that selects the layout is there. -/
theorem exec_dParhdr_of_empty {s : State} (h : s.dlen < s.dcur + 1) :
    exec .dParhdr s = .next { s with resp := failResp .truncatedInput 1 } := by
  change execDParhdr s = _
  rw [execDParhdr]
  simp only [if_pos h]
  rfl

/-- Settles O33: the first bit chooses between `tvhdrAnswer` and `tlvhdrAnswer`, whose branches are the clauses. -/
theorem parameterHeaderDecode : Obligations.ParameterHeaderDecode := by
  rintro s _ rfl
  refine ⟨exec_dParhdr_of_empty, fun hsel => ?_, fun hsel => ?_⟩
  · rw [exec_dParhdr_tv hsel]
    unfold tvhdrAnswer
    refine ⟨fun h8 => ?_, ?_⟩
    · rw [if_pos h8]
      rfl
    intro type htype h8
    rw [if_neg (Nat.not_lt.mpr h8), memRead_eq_memValue s.dbits (s.dcur + 1) 7 h8, ← htype, tvLenOf]
    refine ⟨fun hundef => ?_, fun len hlen => ?_⟩
    · rw [hundef]
      rfl
    · rw [hlen]
      rfl
  · rw [exec_dParhdr_tlv hsel, tlvhdrAnswer]
    refine ⟨fun h16 => ?_, fun h16 h32 => ?_, ?_⟩
    · rw [if_pos h16]
      rfl
    · rw [if_neg (Nat.not_lt.mpr h16), if_pos h32]
      rfl
    intro type length htype hlength h32
    have h16 : s.dcur + 16 ≤ s.dlen := Nat.le_of_add_right_le (k := 16) h32
    rw [if_neg (Nat.not_lt.mpr h16), if_neg (Nat.not_lt.mpr h32), memRead_eq_memValue s.dbits (s.dcur + 6) 10 h16,
      memRead_eq_memValue s.dbits (s.dcur + 16) 16 h32, ← htype, ← hlength]
    refine ⟨fun hshort => ?_, fun hfour => ?_⟩
    · rw [if_pos hshort]
      rfl
    · rw [if_neg (Nat.not_lt.mpr hfour)]
      rfl

/-! ## Custom bodies -/

section
variable {w endOff : Nat} {s : State}

/-- R242: no vendor. -/
theorem readCustom_of_no_vendor (h : s.dlen < s.dcur + 32) :
    readCustom w endOff s = .raised .truncatedInput (s.dcur + 32 - s.dlen) s := by
  rw [readCustom, readField_of_lt h]
  rfl

/-- R242: a vendor and no subtype. -/
theorem readCustom_of_no_subtype (h32 : s.dcur + 32 ≤ s.dlen) (h : s.dlen < s.dcur + 32 + w) :
    readCustom w endOff s = .raised .truncatedInput (s.dcur + 32 + w - s.dlen) (s.setDcur (s.dcur + 32)) := by
  rw [readCustom, readField_of_le h32, Ret.andThen_ok, readField_of_lt (s := s.setDcur (s.dcur + 32)) h]
  rfl

/-- R242: past vendor and subtype the body is an opaque read. -/
theorem readCustom_of_le (h : s.dcur + 32 + w ≤ s.dlen) :
    readCustom w endOff s =
      (readOpaque endOff (s.setDcur (s.dcur + 32 + w))).andThen fun bytes t =>
        .ok (.custom (memValue s.dbits s.dcur 32) (memValue s.dbits (s.dcur + 32) w) bytes) t := by
  have h32 : s.dcur + 32 ≤ s.dlen := Nat.le_of_add_right_le h
  rw [readCustom, readField_of_le h32, Ret.andThen_ok, readField_of_le (s := s.setDcur (s.dcur + 32)) h,
    memRead_eq_memValue s.dbits s.dcur 32 h32]
  simp only [Ret.andThen_ok, State.setDcur_dbits, State.setDcur_dcur, memRead_eq_memValue _ _ _ h]
  rfl

end

/-- Settles O35: the two operations differ in the width of the subtype; past it the four cases of the opaque read are
the clauses. -/
theorem customBodyDecode : Obligations.CustomBodyDecode := by
  rintro s endOff w _ i hi rfl
  have hexec : exec i s = (readCustom w endOff s).respond := by
    rcases hi with ⟨rfl, rfl⟩ | ⟨rfl, rfl⟩ <;> rfl
  rw [hexec]
  refine ⟨fun h => ?_, fun h32 h => ?_, fun h => ?_⟩
  · rw [readCustom_of_no_vendor h]
    rfl
  · rw [readCustom_of_no_subtype h32 h]
    rfl
  rw [readCustom_of_le h]
  have htail := readOpaque_cases endOff (s.setDcur (s.dcur + 32 + w))
  simp only [State.setDcur_dcur, State.setDcur_dlen, State.setDcur_dbits] at htail
  rcases htail with ⟨hback, e⟩ | ⟨hle, hpast, e⟩ | ⟨hle, hend, hodd, e⟩ | ⟨hle, hend, hwhole, e⟩ <;> rw [e]
  · exact ⟨fun _ => rfl, by omega, by omega, by omega⟩
  · exact ⟨by omega, fun _ => rfl, by omega, by omega⟩
  · exact ⟨by omega, by omega, fun _ _ _ => rfl, by omega⟩
  · refine ⟨by omega, by omega, by omega, fun _ _ _ => ⟨_, rfl, length_readBytes _ _ _, holdsAt_readBytes ?_⟩⟩
    have hinside : endOff ≤ s.dbits.length := hend
    omega

end Sys2Proof.Machine
end

section
/-! PROOFS. 45_envelope_decode.md R247, with 46_envelope_encode.md R261 to R264: a message header written, its length
patched in, carried over to the decode buffer and read back. -/

namespace Sys2Proof.Machine

/-! ## Writing a header -/

/-- R15: a write over exactly the middle part of a buffer. -/
theorem memWrite_middle (l m r : List Bool) (v : Nat) :
    memWrite (l ++ m ++ r) l.length m.length v = l ++ natToBits m.length v ++ r := by
  simp [memWrite]

/-- R263: the length field of a header stands at offset 16, so a patch is the header with another length. -/
theorem memWrite_msghdrBits_length (reserved ver type old length id : Nat) (body : List Bool) :
    memWrite (msghdrBits reserved ver type old id ++ body) 16 32 length =
      msghdrBits reserved ver type length id ++ body := by
  have hmiddle := memWrite_middle (natToBits 3 reserved ++ natToBits 3 ver ++ natToBits 10 type) (natToBits 32 old)
    (natToBits 32 id ++ body) length
  simpa [msghdrBits] using hmiddle

/-- R261: operands that fit their fields, and room for the header. -/
theorem exec_eMsghdr_of_fits {ver type id : Nat} {s : State} (hver : ver ≤ 7) (htype : type ≤ 1023)
    (hid : id ≤ 2 ^ 32 - 1) (hfits : Fits s.cfg.ecapBits (s.elen + 80)) :
    exec (.eMsghdr ver type id) s =
      .next ((s.setEbits (s.ebits ++ msghdrBits 0 ver type 0 id)).setResp ⟨.ok, 0, .start s.elen⟩) := by
  have hoperands : firstMisfit [(ver, 7), (type, 1023), (id, 2 ^ 32 - 1)] = none :=
    firstMisfit_eq_none.mpr (by simp [-Nat.reducePow, -Nat.reduceSub, hver, htype, hid])
  rw [← length_msghdrBits 0 ver type 0 id] at hfits
  change execEMsghdr ver type id s = _
  rw [execEMsghdr, requireFit, hoperands]
  simp only [Ret.andThen_ok, appendHeader, appendBits_of_fits hfits, Ret.respond_ok]

/-- R263: a message of `n` whole bytes, its header among them, takes its length. -/
theorem exec_eMsglen_of_bytes {start n : Nat} {s : State} (helen : s.elen = start + 8 * n) (hten : 10 ≤ n)
    (hmax : n ≤ 2 ^ 32 - 1) :
    exec (.eMsglen start) s =
      .next ((s.setEbits (memWrite s.ebits (start + 16) 32 n)).setResp ⟨.ok, 0, .length n⟩) := by
  have hbytes : (s.elen - start) / 8 = n := by omega
  change execEMsglen start s = _
  rw [execEMsglen]
  rcases patchLength_cases 80 32 (2 ^ 32 - 1) start s with ⟨h, _⟩ | ⟨_, h, _⟩ | ⟨_, _, h, _⟩ | ⟨_, _, _, e⟩
  · omega
  · omega
  · omega
  · rw [e, hbytes, Ret.respond_ok]

/-! ## Reading it back -/

/-- R90: the fields of a header at the start of a buffer. -/
theorem headerAt_msghdrBits (reserved ver type length id : Nat) (body : List Bool) :
    headerAt (msghdrBits reserved ver type length id ++ body) 0 =
      ⟨ver % 2 ^ 3, type % 2 ^ 10, length % 2 ^ 32, id % 2 ^ 32⟩ := by
  have hfield {off n : Nat} (h : off + n ≤ 80) :
      memRead (msghdrBits reserved ver type length id ++ body) off n =
        memValue (msghdrBits reserved ver type length id ++ body) off n :=
    memRead_eq_memValue _ _ _ (by simp; omega)
  rw [headerAt, hfield (by decide), hfield (by decide), hfield (by decide), hfield (by decide)]
  simp [-Nat.reducePow, msghdrBits]

/-- R132, R141: what `E.READ` returns, loaded, is the encode buffer with the cursor at its start. -/
theorem exec_eRead_dLoad {u : State} {n : Nat} (helen : u.elen = 8 * n) (hfits : Fits u.cfg.dcapBits (8 * n)) :
    ∃ (bs : List Byte) (u1 u2 : State), exec .eRead u = .next u1 ∧ u1.resp = okResp (.bytes bs) ∧ bs.length = n ∧
      exec (.dLoad bs) u1 = .next u2 ∧ u2.dbits = u.ebits ∧ u2.dcur = 0 := by
  have hlen : (bitsToBytes u.ebits).length = n := by
    rw [bitsToBytes, length_readBytes]
    exact Nat.div_eq_of_eq_mul_right (by decide) helen
  refine ⟨bitsToBytes u.ebits, _, _, exec_eRead_of_aligned (by omega), rfl, hlen, exec_dLoad_of_fits ?_,
    bytesToBits_bitsToBytes n u.ebits helen, rfl⟩
  rwa [hlen]

/-- R247, on the decode side: a header that declares the length of its buffer. -/
theorem exec_dMsghdr_of_msghdrBits {ver type id n : Nat} {body : List Bool} {s : State}
    (hdbits : s.dbits = msghdrBits 0 ver type n id ++ body) (hdcur : s.dcur = 0) (hver : ver ≤ 7) (htype : type ≤ 1023)
    (hid : id ≤ 2 ^ 32 - 1) (hten : 10 ≤ n) (hmax : n ≤ 2 ^ 32 - 1) (hdlen : s.dlen = 8 * n) :
    exec (.dMsghdr type) s =
      .next { s with dcur := 80, resp := okResp (.msgHeader ver type n id 0 s.dlen) } := by
  have hheader : headerAt s.dbits s.dcur = ⟨ver, type, n, id⟩ := by
    rw [hdbits, hdcur, headerAt_msghdrBits, Nat.mod_eq_of_lt (by omega), Nat.mod_eq_of_lt (by omega),
      Nat.mod_eq_of_lt (by omega), Nat.mod_eq_of_lt (by omega)]
  have hend : s.dcur + 8 * n ≤ s.dlen := by omega
  have hexec := exec_dMsghdr_of_header hheader htype hten hend
  rwa [hdcur, Nat.zero_add, Nat.zero_add, ← hdlen] at hexec

/-- Settles O40: the patch turns the placeholder length into the length of the buffer, which goes over to the decode
side as it is. -/
theorem messageRoundTrip : Obligations.MessageRoundTrip := by
  intro s ver type id body hver htype hid halign hmax hecap hdcap
  obtain ⟨n, hn⟩ : ∃ n, n = 10 + body.length / 8 := ⟨_, rfl⟩
  have hlen80 : 80 + body.length = 8 * n := by omega
  rw [← hn] at hmax ⊢
  have hheader := exec_eMsghdr_of_fits (s := (s.setEbits []).setResp ⟨.ok, 0, .absent⟩) hver htype hid
    (hecap.mono (Nat.le_add_right 80 _))
  refine ⟨_, _, rfl, hheader, rfl, fun u hu => ?_⟩
  have hebits : u.ebits = msghdrBits 0 ver type 0 id ++ body := by
    rw [hu]
    rfl
  have hcfg : u.cfg = s.cfg := by
    rw [hu]
    rfl
  have hwhole (length : Nat) : (msghdrBits 0 ver type length id ++ body).length = 8 * n := by
    rw [List.length_append, length_msghdrBits, hlen80]
  have helen : u.elen = 0 + 8 * n := by
    rw [State.elen, hebits, hwhole, Nat.zero_add]
  have hpatch := exec_eMsglen_of_bytes helen (by omega) hmax
  rw [hebits, memWrite_msghdrBits_length] at hpatch
  rw [hlen80, ← hcfg] at hdcap
  obtain ⟨bs, u2, u3, hread, hbytes, hlen, hload, hdbits, hdcur⟩ :=
    exec_eRead_dLoad (u := (u.setEbits (msghdrBits 0 ver type n id ++ body)).setResp ⟨.ok, 0, .length n⟩) (hwhole n)
      hdcap
  have hdlen : u3.dlen = 8 * n := by
    rw [State.dlen, hdbits]
    exact hwhole n
  have hdecode := exec_dMsghdr_of_msghdrBits hdbits hdcur hver htype hid (by omega) hmax hdlen
  rw [← hlen] at hdecode hdlen
  exact ⟨bs, _, u2, u3, _, hpatch, rfl, hread, hbytes, hlen, hload, hdecode, rfl, hdlen⟩

end Sys2Proof.Machine
end

section
/-! PROOFS. 46_envelope_encode.md R260 to R273: the checks and the answers of the envelope encode operations, the fields
that they leave in the buffer, and a TLV parameter written and read back. -/

namespace Sys2Proof.Machine

/-! ## Operands and room -/

section
variable {i : Instr} {operands : List (Nat × Nat)} {body : Unit → State → Ret Results} {s : State}
  (hexec : exec i s = ((requireFit operands s).andThen body).respond)
include hexec

/-- R260: operands that all fit their fields let the operation go on. -/
theorem exec_of_operands_le (h : ∀ p ∈ operands, p.1 ≤ p.2) : exec i s = (body () s).respond := by
  rw [hexec, requireFit, firstMisfit_eq_none.mpr h]
  rfl

/-- R261, R266, R267, R271, R272: where an operand does not fit its field, the info is one that does not. -/
theorem exec_of_exists_operand_lt (h : ∃ p ∈ operands, p.2 < p.1) :
    ∃ v greatest, (v, greatest) ∈ operands ∧ greatest < v ∧
      exec i s = .next { s with resp := failResp .badOperand v } := by
  cases hfirst : firstMisfit operands with
  | none =>
    obtain ⟨p, hp, hlt⟩ := h
    exact absurd (firstMisfit_eq_none.mp hfirst p hp) (Nat.not_le.mpr hlt)
  | some v =>
    obtain ⟨greatest, hmem, hlt⟩ := firstMisfit_mem hfirst
    exact ⟨v, greatest, hmem, hlt, by rw [hexec, requireFit, hfirst]; rfl⟩

end

/-- R266, R267: the only operand does not fit its field. -/
theorem exec_of_operand_lt {i : Instr} {v greatest : Nat} {body : Unit → State → Ret Results} {s : State}
    (hexec : exec i s = ((requireFit [(v, greatest)] s).andThen body).respond) (h : greatest < v) :
    exec i s = .next { s with resp := failResp .badOperand v } := by
  obtain ⟨u, g, hmem, -, hresp⟩ := exec_of_exists_operand_lt hexec ⟨(v, greatest), List.mem_singleton_self _, h⟩
  obtain ⟨rfl, rfl⟩ := Prod.mk.inj (List.mem_singleton.mp hmem)
  exact hresp

section
variable {bits : List Bool} {s : State}

/-- R261, R267: the header fits. -/
theorem respond_appendHeader_of_fits (h : Fits s.cfg.ecapBits (s.elen + bits.length)) :
    (appendHeader bits s).respond =
      .next ((s.setEbits (s.ebits ++ bits)).setResp ⟨.ok, 0, .start s.elen⟩) := by
  rw [appendHeader, appendBits_of_fits h, Ret.andThen_ok, Ret.respond_ok]

/-- R261, R267: the header does not fit. -/
theorem respond_appendHeader_of_not_fits (h : ¬Fits s.cfg.ecapBits (s.elen + bits.length)) :
    (appendHeader bits s).respond = .next (s.setResp ⟨.overflow, s.elen + bits.length, .absent⟩) := by
  rw [appendHeader, appendBits, (exceeds_eq_true_iff _ _).mpr h]
  rfl

end

/-! ## Fields of an appended string -/

/-- R15: a field inside the first part of a buffer. -/
theorem memValue_append_left (l m : List Bool) (off n : Nat) (h : off + n ≤ l.length) :
    memValue (l ++ m) off n = memValue l off n := by
  rw [← memRead_eq_memValue _ _ _ h, ← memRead_append_left l m off n h,
    memRead_eq_memValue _ _ _ (by rw [List.length_append]; omega)]

/-- R170: what stands `off` bits into the appended string stands `off` bits past the old length. -/
theorem memValue_appended (s : State) (bits : List Bool) (off n : Nat) :
    memValue (s.ebits ++ bits) (s.elen + off) n = memValue bits off n := by
  refine Finset.sum_congr rfl fun i _ => ?_
  rw [bitAt, bitAt, State.elen, Nat.add_assoc, List.getD_append_right _ _ _ _ (Nat.le_add_right _ _),
    Nat.add_sub_cancel_left]

/-- R90: the five fields of a message header. -/
theorem memValue_msghdrBits (reserved ver type length id : Nat) :
    memValue (msghdrBits reserved ver type length id) 0 3 = reserved % 2 ^ 3 ∧
    memValue (msghdrBits reserved ver type length id) 3 3 = ver % 2 ^ 3 ∧
    memValue (msghdrBits reserved ver type length id) 6 10 = type % 2 ^ 10 ∧
    memValue (msghdrBits reserved ver type length id) 16 32 = length % 2 ^ 32 ∧
    memValue (msghdrBits reserved ver type length id) 48 32 = id % 2 ^ 32 := by
  simp [-Nat.reducePow, msghdrBits]

/-- R91: the flag and the type of a TV header. -/
theorem memValue_tvhdrBits (type : Nat) :
    memValue (tvhdrBits type) 0 1 = 1 ∧ memValue (tvhdrBits type) 1 7 = type % 2 ^ 7 := by
  simp [-Nat.reducePow, tvhdrBits]

/-- R267: with its reserved bits zero, the first word of a TLV header is the type. -/
theorem tlvhdrBits_zero (type length : Nat) :
    tlvhdrBits 0 type length = natToBits 6 0 ++ natToBits 10 type ++ natToBits 16 length := rfl

/-- R92: the fields of a TLV header, the selector and the reserved bits together. -/
theorem memValue_tlvhdrBits (type length : Nat) :
    memValue (tlvhdrBits 0 type length) 0 6 = 0 ∧
    memValue (tlvhdrBits 0 type length) 6 10 = type % 2 ^ 10 ∧
    memValue (tlvhdrBits 0 type length) 16 16 = length % 2 ^ 16 := by
  simp [-Nat.reducePow, tlvhdrBits_zero]

/-- R93, R94: the vendor and the subtype of a custom body. -/
theorem memValue_customBits (vendor w subtype : Nat) (bs : List Byte) :
    memValue (customBits vendor w subtype bs) 0 32 = vendor % 2 ^ 32 ∧
    memValue (customBits vendor w subtype bs) 32 w = subtype % 2 ^ w := by
  simp [-Nat.reducePow, customBits]

/-- R93, R94: the payload of a custom body. -/
theorem holdsAt_customBits (vendor w subtype : Nat) (bs : List Byte) :
    HoldsAt 8 BitVec.toNat (customBits vendor w subtype bs) (32 + w) bs := by
  have hpayload := holdsAt_flatMap (natToBits 32 vendor ++ natToBits w subtype) [] bs
  rwa [List.append_nil, List.length_append, length_natToBits, length_natToBits] at hpayload

/-! ## Headers -/

/-- Settles O36: past the check of its operands `E.MSGHDR` is the append of the header, whose fields stand past the old
length where R90 puts them. -/
theorem messageHeaderEncode : Obligations.MessageHeaderEncode := by
  intro s ver type id
  have hexec : exec (.eMsghdr ver type id) s =
      ((requireFit [(ver, 7), (type, 1023), (id, 2 ^ 32 - 1)] s).andThen fun _ t =>
        appendHeader (msghdrBits 0 ver type 0 id) t).respond := rfl
  refine ⟨fun hmisfit => ?_, fun hver htype hid => ⟨fun hfull => ?_, fun hfits => ?_⟩⟩
  · obtain ⟨v, greatest, hmem, hlt, hresp⟩ := exec_of_exists_operand_lt hexec (by
      simpa only [List.exists_mem_cons_iff, List.not_mem_nil, false_and, exists_false, or_false] using hmisfit)
    simp only [List.mem_cons, Prod.mk.injEq, List.not_mem_nil, or_false] at hmem
    refine ⟨v, ?_, hresp⟩
    rcases hmem with ⟨rfl, rfl⟩ | ⟨rfl, rfl⟩ | ⟨rfl, rfl⟩
    · exact .inl ⟨rfl, hlt⟩
    · exact .inr (.inl ⟨rfl, hlt⟩)
    · exact .inr (.inr ⟨rfl, hlt⟩)
  · rw [exec_of_operands_le hexec (List.forall_mem_cons.mpr ⟨hver, List.forall_mem_cons.mpr ⟨htype,
      List.forall_mem_singleton.mpr hid⟩⟩)]
    exact respond_appendHeader_of_not_fits (bits := msghdrBits 0 ver type 0 id) (by rwa [length_msghdrBits])
  · obtain ⟨hreserved, hv, ht, hlength, hi⟩ := memValue_msghdrBits 0 ver type 0 id
    rw [Nat.mod_eq_of_lt (by omega)] at hv ht hi
    exact ⟨_, exec_eMsghdr_of_fits hver htype hid hfits, rfl, List.length_append, List.take_left,
      (memValue_appended s _ 0 3).trans hreserved, (memValue_appended s _ 3 3).trans hv,
      (memValue_appended s _ 6 10).trans ht, (memValue_appended s _ 16 32).trans hlength,
      (memValue_appended s _ 48 32).trans hi⟩

/-- R266: the operation past its check. -/
theorem exec_eTvhdr_of_le {type : Nat} (h : type ≤ 127) (s : State) :
    exec (.eTvhdr type) s = (appendBits (tvhdrBits type) s).respond :=
  exec_of_operands_le (body := fun _ => appendBits (tvhdrBits type)) rfl (List.forall_mem_singleton.mpr h)

/-- R267: the operation past its check. -/
theorem exec_eTlvhdr_of_le {type : Nat} (h : type ≤ 1023) (s : State) :
    exec (.eTlvhdr type) s = (appendHeader (tlvhdrBits 0 type 0) s).respond :=
  exec_of_operands_le (body := fun _ => appendHeader (tlvhdrBits 0 type 0)) rfl (List.forall_mem_singleton.mpr h)

/-- R267: a type that fits its field, and room for the header. -/
theorem exec_eTlvhdr_of_fits {type : Nat} {s : State} (htype : type ≤ 1023)
    (hfits : Fits s.cfg.ecapBits (s.elen + 32)) :
    exec (.eTlvhdr type) s =
      .next ((s.setEbits (s.ebits ++ tlvhdrBits 0 type 0)).setResp ⟨.ok, 0, .start s.elen⟩) := by
  rw [exec_eTlvhdr_of_le htype, respond_appendHeader_of_fits (by rwa [length_tlvhdrBits])]

/-- Settles O37: each of the two operations checks its type and then appends its header, whose fields stand past the old
length where R91 and R92 put them. -/
theorem parameterHeaderEncode : Obligations.ParameterHeaderEncode := by
  intro s type
  refine ⟨exec_of_operand_lt rfl, fun htype => ?_, exec_of_operand_lt rfl, fun htype =>
    ⟨fun hfull => ?_, fun hfits => ?_⟩⟩
  · rw [exec_eTvhdr_of_le htype, ← length_tvhdrBits type]
    refine ⟨respond_appendBits_of_not_fits, fun hfits => ?_⟩
    obtain ⟨hflag, ht⟩ := memValue_tvhdrBits type
    rw [Nat.mod_eq_of_lt (by omega)] at ht
    exact ⟨_, respond_appendBits_of_fits hfits, rfl, List.length_append, List.take_left,
      (memValue_appended s _ 0 1).trans hflag, (memValue_appended s _ 1 7).trans ht⟩
  · rw [exec_eTlvhdr_of_le htype]
    exact respond_appendHeader_of_not_fits (bits := tlvhdrBits 0 type 0) (by rwa [length_tlvhdrBits])
  · obtain ⟨hzero, ht, hlength⟩ := memValue_tlvhdrBits type 0
    rw [Nat.mod_eq_of_lt (by omega)] at ht
    exact ⟨_, exec_eTlvhdr_of_fits htype hfits, rfl, List.length_append, List.take_left,
      (memValue_appended s _ 0 6).trans hzero, (memValue_appended s _ 6 10).trans ht,
      (memValue_appended s _ 16 16).trans hlength⟩

/-! ## Custom bodies -/

/-- Settles O38: the two operations differ in the width of the subtype; past the check of the operands they append the
body, whose fields and payload stand past the old length where R93 and R94 put them. -/
theorem customBodyEncode : Obligations.CustomBodyEncode := by
  intro s vendor subtype w bs i hi
  have hexec : exec i s =
      ((requireFit [(vendor, 2 ^ 32 - 1), (subtype, 2 ^ w - 1)] s).andThen fun _ t =>
        appendBits (customBits vendor w subtype bs) t).respond := by
    rcases hi with ⟨rfl, rfl⟩ | ⟨rfl, rfl⟩ <;> rfl
  refine ⟨fun hmisfit => ?_, fun hvendor hsubtype => ?_⟩
  · obtain ⟨v, greatest, hmem, hlt, hresp⟩ := exec_of_exists_operand_lt hexec (by
      simpa only [List.exists_mem_cons_iff, List.not_mem_nil, false_and, exists_false, or_false] using hmisfit)
    simp only [List.mem_cons, Prod.mk.injEq, List.not_mem_nil, or_false] at hmem
    refine ⟨v, ?_, hresp⟩
    rcases hmem with ⟨rfl, rfl⟩ | ⟨rfl, rfl⟩
    · exact .inl ⟨rfl, hlt⟩
    · exact .inr ⟨rfl, hlt⟩
  · rw [exec_of_operands_le hexec (List.forall_mem_cons.mpr ⟨hvendor, List.forall_mem_singleton.mpr hsubtype⟩),
      ← length_customBits vendor w subtype bs]
    refine ⟨respond_appendBits_of_not_fits, fun hfits => ?_⟩
    obtain ⟨hv, hs⟩ := memValue_customBits vendor w subtype bs
    rw [Nat.mod_eq_of_lt (by omega)] at hv
    rw [Nat.mod_eq_of_lt (Nat.lt_of_le_pred (Nat.two_pow_pos w) hsubtype)] at hs
    refine ⟨_, respond_appendBits_of_fits hfits, rfl, List.length_append, List.take_left,
      (memValue_appended s _ 0 32).trans hv, (memValue_appended s _ 32 w).trans hs, fun k b hb => ?_⟩
    have hplace : s.elen + 32 + w + 8 * k = s.elen + (32 + w + 8 * k) := by omega
    rw [hplace]
    exact (memValue_appended s _ _ 8).trans (holdsAt_customBits vendor w subtype bs k b hb).symm

/-! ## Length fields -/

/-- Settles O39: the four cases of `patchLength` are the four clauses, and exclude one another; the write that the last
of them makes lies inside the header (R15). -/
theorem lengthPatchOverwritesField : Obligations.LengthPatchOverwritesField := by
  intro s i start hdrBits w hi
  have hexec : exec i s = (patchLength hdrBits w (2 ^ w - 1) start s).respond := by
    rcases hi with ⟨rfl, rfl, rfl⟩ | ⟨rfl, rfl, rfl⟩ <;> rfl
  have hinside : 16 + w ≤ hdrBits := by
    rcases hi with ⟨-, rfl, rfl⟩ | ⟨-, rfl, rfl⟩ <;> decide
  rw [hexec]
  rcases patchLength_cases hdrBits w (2 ^ w - 1) start s with
    ⟨hshort, e⟩ | ⟨hle, hodd, e⟩ | ⟨hle, hwhole, hlong, e⟩ | ⟨hle, hwhole, hmax, e⟩ <;> rw [e]
  · exact ⟨fun _ => rfl, by omega, by omega, by omega⟩
  · exact ⟨by omega, fun _ _ => rfl, by omega, by omega⟩
  · exact ⟨by omega, by omega, fun _ _ _ => rfl, by omega⟩
  · have hfield : start + 16 + w ≤ s.ebits.length := by
      have : start + hdrBits ≤ s.ebits.length := hle
      omega
    obtain ⟨hlen, -, hframe⟩ := memWriteTouchesOnlyItsBits s.ebits (start + 16) w ((s.elen - start) / 8) hfield
    refine ⟨by omega, by omega, by omega, fun _ _ _ => ⟨_, rfl, rfl, hlen, ?_, hframe⟩⟩
    have hvalue := memRead_memWrite s.ebits (start + 16) w ((s.elen - start) / 8) hfield
    rw [memRead_eq_memValue _ _ _ (by rwa [hlen]),
      Nat.mod_eq_of_lt (Nat.lt_of_le_pred (Nat.two_pow_pos w) hmax)] at hvalue
    exact hvalue

/-! ## A TLV parameter written and read back -/

/-- R269: the length field of a TLV header stands at offset 16, so a patch is the header with another length. -/
theorem memWrite_tlvhdrBits_length (reserved type old length : Nat) (value : List Bool) :
    memWrite (tlvhdrBits reserved type old ++ value) 16 16 length = tlvhdrBits reserved type length ++ value := by
  have hmiddle := memWrite_middle (natToBits 1 0 ++ natToBits 5 reserved ++ natToBits 10 type) (natToBits 16 old)
    value length
  simpa [tlvhdrBits] using hmiddle

/-- R263, R269: a structure of `n` whole bytes, its header among them, takes its length. -/
theorem patchLength_of_bytes {hdrBits w greatest start n : Nat} {s : State} (helen : s.elen = start + 8 * n)
    (hheader : hdrBits ≤ 8 * n) (hmax : n ≤ greatest) :
    patchLength hdrBits w greatest start s =
      .ok (.length n) (s.setEbits (memWrite s.ebits (start + 16) w n)) := by
  have hbytes : (s.elen - start) / 8 = n := by omega
  rcases patchLength_cases hdrBits w greatest start s with ⟨h, _⟩ | ⟨_, h, _⟩ | ⟨_, _, h, _⟩ | ⟨_, _, _, e⟩
  · omega
  · omega
  · omega
  · rw [e, hbytes]

/-- R269, R270: a parameter of at most 65535 bytes. -/
theorem exec_eTlvlen_of_bytes {start n : Nat} {s : State} (helen : s.elen = start + 8 * n) (hfour : 4 ≤ n)
    (hmax : n ≤ 65535) :
    exec (.eTlvlen start) s =
      .next ((s.setEbits (memWrite s.ebits (start + 16) 16 n)).setResp ⟨.ok, 0, .length n⟩) := by
  change execETlvlen start s = _
  rw [execETlvlen, patchLength_of_bytes helen (by omega) hmax, Ret.respond_ok]

/-- R273, on the decode side: a TLV header at the start of the buffer. -/
theorem exec_dParhdr_of_tlvhdrBits {type n : Nat} {value : List Bool} {s : State}
    (hdbits : s.dbits = tlvhdrBits 0 type n ++ value) (hdcur : s.dcur = 0) (htype : type ≤ 1023) (hfour : 4 ≤ n)
    (hmax : n ≤ 65535) :
    exec .dParhdr s = .next { s with dcur := 32, resp := okResp (.tlvHeader type n 0 (8 * n)) } := by
  have hselector : s.dbits[0]? = some false := by
    rw [hdbits]
    rfl
  have hlen : 32 ≤ s.dlen := by
    rw [State.dlen, hdbits, List.length_append, length_tlvhdrBits]
    exact Nat.le_add_right 32 _
  obtain ⟨-, ht, hlength⟩ := memValue_tlvhdrBits type n
  rw [Nat.mod_eq_of_lt (by omega), ← memValue_append_left _ value _ _ (by simp), ← hdbits] at ht hlength
  obtain ⟨-, -, htlv⟩ := parameterHeaderDecode s 0 hdcur.symm
  obtain ⟨-, -, hfields⟩ := htlv hselector
  obtain ⟨-, hok⟩ := hfields type n ht.symm hlength.symm hlen
  simpa only [Nat.zero_add] using hok hfour

/-- Settles O41: the patch turns the placeholder length into the length of the buffer, which goes over to the decode
side as it is. -/
theorem parameterRoundTrip : Obligations.ParameterRoundTrip := by
  intro s type value htype halign hmax hecap hdcap
  obtain ⟨n, hn⟩ : ∃ n, n = 4 + value.length / 8 := ⟨_, rfl⟩
  have hlen32 : 32 + value.length = 8 * n := by omega
  rw [← hn] at hmax ⊢
  have hheader := exec_eTlvhdr_of_fits (s := (s.setEbits []).setResp ⟨.ok, 0, .absent⟩) htype
    (hecap.mono (Nat.le_add_right 32 _))
  refine ⟨_, _, rfl, hheader, rfl, fun u hu => ?_⟩
  have hebits : u.ebits = tlvhdrBits 0 type 0 ++ value := by
    rw [hu]
    rfl
  have hcfg : u.cfg = s.cfg := by
    rw [hu]
    rfl
  have hwhole (length : Nat) : (tlvhdrBits 0 type length ++ value).length = 8 * n := by
    rw [List.length_append, length_tlvhdrBits, hlen32]
  have helen : u.elen = 0 + 8 * n := by
    rw [State.elen, hebits, hwhole, Nat.zero_add]
  have hpatch := exec_eTlvlen_of_bytes helen (by omega) hmax
  rw [hebits, memWrite_tlvhdrBits_length] at hpatch
  rw [hlen32, ← hcfg] at hdcap
  obtain ⟨bs, u2, u3, hread, hbytes, -, hload, hdbits, hdcur⟩ :=
    exec_eRead_dLoad (u := (u.setEbits (tlvhdrBits 0 type n ++ value)).setResp ⟨.ok, 0, .length n⟩) (hwhole n) hdcap
  have hdlen : u3.dlen = 8 * n := by
    rw [State.dlen, hdbits]
    exact hwhole n
  exact ⟨bs, _, u2, u3, _, hpatch, rfl, hread, hbytes, hload,
    exec_dParhdr_of_tlvhdrBits hdbits hdcur htype (by omega) hmax, rfl, hdlen⟩

end Sys2Proof.Machine
end

section
/-! PROOFS. 47_reassembler.md R290 to R303: what one byte, one chunk and a sequence of chunks do to the reassembler. -/

namespace Sys2Proof.Machine

/-! ## One byte -/

/-- R295: a closed reassembler discards a byte. -/
theorem feedByte_of_closed (b : Byte) {s : State} (h : s.rstate = .closed) : feedByte b s = ⟨.closed, 1, [], s⟩ := by
  simp [feedByte, h]

/-- R293: the header bytes collected so far, and the next one. -/
theorem take_succ_setIfInBounds (hdr : Vector Byte 10) (b : Byte) {n : Nat} (hn : n < 10) :
    (hdr.setIfInBounds n b).toList.take (n + 1) = hdr.toList.take n ++ [b] := by
  have hlen : n < hdr.toList.length := by simpa using hn
  have hset : (hdr.setIfInBounds n b).toList = hdr.toList.set n b := by
    simp 
  rw [hset, List.set_eq_take_append_cons_drop, if_pos hlen, List.take_append]
  simp [hn.le]

/-- R292, R293: a header byte that is not the tenth. -/
theorem feedByte_of_header_part (b : Byte) {s : State} (h : s.rstate = .awaitingHeader) (hcnt : s.hcnt + 1 ≠ 10) :
    feedByte b s = ⟨.ok, 0, [], s.setHdr (s.hdr.setIfInBounds s.hcnt b) (s.hcnt + 1)⟩ := by
  simp [feedByte, feedHeader, h, hcnt]

/-- R292, R293: the tenth header byte. -/
theorem feedByte_of_header_end (b : Byte) {s : State} (h : s.rstate = .awaitingHeader) (hcnt : s.hcnt = 9) :
    ∃ hdr : Vector Byte 10, hdr.toList = s.hdr.toList.take 9 ++ [b] ∧ feedByte b s = finishHeader hdr s := by
  refine ⟨s.hdr.setIfInBounds 9 b, ?_, by simp [feedByte, feedHeader, h, hcnt]⟩
  rw [← take_succ_setIfInBounds s.hdr b (by decide), List.take_of_length_le (by simp)]

/-- R294: a body byte that is not the last. -/
theorem feedByte_of_body_part (b : Byte) {s : State} (h : s.rstate = .awaitingBody) (hcnt : s.mcnt + 1 ≠ s.mlen) :
    feedByte b s = ⟨.ok, 0, [], s.setBody .awaitingBody (s.mbuf ++ [b]) s.mlen⟩ := by
  simp [feedByte, feedBody, h, hcnt]

/-- R294: the last body byte. -/
theorem feedByte_of_body_end (b : Byte) {s : State} (h : s.rstate = .awaitingBody) (hcnt : s.mcnt + 1 = s.mlen) :
    feedByte b s = ⟨.ok, 0, [.messageComplete (s.mbuf ++ [b])],
      (s.emit (.messageComplete (s.mbuf ++ [b]))).setBody .awaitingHeader [] 0⟩ := by
  simp [feedByte, feedBody, h, hcnt]

section
variable {hdr : Vector Byte 10} {s : State}

/-- R298: a header that is refused. -/
theorem finishHeader_of_refused {c : Cause} (h : validate s.cfg (parseHeader hdr.toList) = some c) :
    finishHeader hdr s = ⟨.framingFault, c.number, [.framingFault c],
      ((s.setHdr hdr 0).setBody .closed s.mbuf s.mlen).emit (.framingFault c)⟩ := by
  simp [finishHeader, h]

/-- R303: a header that is a whole message. -/
theorem finishHeader_of_ten (h : validate s.cfg (parseHeader hdr.toList) = none)
    (hlen : (parseHeader hdr.toList).length = 10) :
    finishHeader hdr s = ⟨.ok, 0, [.messageComplete hdr.toList], (s.setHdr hdr 0).emit (.messageComplete hdr.toList)⟩ := by
  simp [finishHeader, h, hlen]

/-- R292: a header that opens a body. -/
theorem finishHeader_of_body (h : validate s.cfg (parseHeader hdr.toList) = none)
    (hlen : (parseHeader hdr.toList).length ≠ 10) :
    finishHeader hdr s =
      ⟨.ok, 0, [], (s.setHdr hdr 0).setBody .awaitingBody hdr.toList (parseHeader hdr.toList).length⟩ := by
  simp [finishHeader, h, hlen]

end

/-- Settles O44, state by state (R292 to R294, R298, R303). -/
theorem feedByteTransitions : Obligations.FeedByteTransitions := by
  intro s b
  have hexec : exec (.rFeed b) s = (feedByte b s).respond := rfl
  rw [hexec]
  refine ⟨fun h => ?_, fun h hcnt => ?_, fun h hcnt m hm => ?_, fun h hcnt => ?_, fun h hcnt => ?_⟩
  · rw [feedByte_of_closed b h]
    rfl
  · rw [feedByte_of_header_part b h (by omega)]
    exact ⟨_, rfl, rfl, take_succ_setIfInBounds s.hdr b (by omega)⟩
  · obtain ⟨hdr, hbytes, e⟩ := feedByte_of_header_end b h hcnt
    rw [e, hm, ← hbytes]
    refine ⟨fun c hrefused => ?_, fun hvalid hten => ?_, fun hvalid hten => ?_⟩
    · rw [finishHeader_of_refused hrefused]
      exact ⟨_, rfl, rfl⟩
    · rw [finishHeader_of_ten hvalid hten]
      exact ⟨_, rfl, rfl⟩
    · rw [finishHeader_of_body hvalid hten]
      exact ⟨_, rfl, rfl⟩
  · rw [feedByte_of_body_part b h hcnt, ← h]
    rfl
  · rw [feedByte_of_body_end b h hcnt]
    rfl

/-! ## A chunk of bytes -/

/-- R295, R299: a closed reassembler discards a chunk. -/
theorem feedChunk_of_closed (bytes : List Byte) {s : State} (h : s.rstate = .closed) :
    feedChunk bytes s = ⟨.closed, bytes.length, [], s⟩ :=
  if_pos h

theorem feedChunk_of_open (bytes : List Byte) {s : State} (h : s.rstate ≠ .closed) :
    feedChunk bytes s = feedAll bytes s :=
  if_neg h

/-- R299: a framing fault ends the loop. -/
theorem feedAll_cons_of_fault {b : Byte} {s : State} (h : (feedByte b s).status = .framingFault) (rest : List Byte) :
    feedAll (b :: rest) s = feedByte b s := by
  simp [feedAll, h]

/-- R299: a byte that is taken lets the loop go on. -/
theorem feedAll_cons_of_ok {b : Byte} {s : State} (h : (feedByte b s).status = .ok) (rest : List Byte) :
    feedAll (b :: rest) s =
      { feedAll rest (feedByte b s).state with
        events := (feedByte b s).events ++ (feedAll rest (feedByte b s).state).events } := by
  simp [feedAll, h]

/-- Settles O45: a byte and a chunk (R295). -/
theorem closedReassemblerDiscards : Obligations.ClosedReassemblerDiscards := by
  intro s b bytes h
  have hbyte : exec (.rFeed b) s = (feedByte b s).respond := rfl
  have hchunk : exec (.rFeedn bytes) s = (feedChunk bytes s).respond := rfl
  rw [hbyte, hchunk, feedByte_of_closed b h, feedChunk_of_closed bytes h]
  exact ⟨rfl, rfl⟩

/-- What a framing fault leaves (R298). -/
structure Faulted (s : State) : Prop where
  rstate : s.rstate = .closed
  hcnt : s.hcnt = 0

/-- R292, R298: a byte fed to an open reassembler is taken with info 0 and leaves it open, or ends in a framing fault. -/
theorem feedByte_open_cases (b : Byte) {s : State} (h : s.rstate ≠ .closed) :
    (feedByte b s).status = .framingFault ∧ Faulted (feedByte b s).state ∨
    (feedByte b s).status = .ok ∧ (feedByte b s).info = 0 ∧ (feedByte b s).state.rstate ≠ .closed := by
  rcases feedByte_cases b s with ⟨hr, _⟩ | ⟨hr, _, e⟩ | ⟨hr, _, e⟩ | ⟨_, _, e⟩ | ⟨_, _, e⟩
  · exact absurd hr h
  · exact .inr (by simp [e, hr])
  · rw [e]
    rcases finishHeader_cases (s.hdr.setIfInBounds s.hcnt b) s with ⟨c, _, e⟩ | ⟨_, _, e⟩ | ⟨_, _, e⟩ <;> rw [e]
    · exact .inl ⟨rfl, rfl, rfl⟩
    · exact .inr (by simp [hr])
    · exact .inr (by simp)
  · exact .inr (by simp [e])
  · exact .inr (by simp [e])

/-- R299: a chunk fed to an open reassembler is taken and leaves it open, or ends in a framing fault. -/
theorem feedAll_open_cases (bytes : List Byte) {s : State} (h : s.rstate ≠ .closed) :
    (feedAll bytes s).status = .framingFault ∧ Faulted (feedAll bytes s).state ∨
    (feedAll bytes s).status = .ok ∧ (feedAll bytes s).state.rstate ≠ .closed := by
  induction bytes generalizing s with
  | nil => exact .inr ⟨rfl, h⟩
  | cons b rest ih =>
    rcases feedByte_open_cases b h with ⟨hst, hfault⟩ | ⟨hst, _, hopen⟩
    · rw [feedAll_cons_of_fault hst]
      exact .inl ⟨hst, hfault⟩
    · rw [feedAll_cons_of_ok hst]
      exact ih hopen

theorem feedChunk_nil (s : State) : (feedChunk [] s).state = s := by
  by_cases h : s.rstate = .closed
  · rw [feedChunk_of_closed _ h]
  · rw [feedChunk_of_open _ h, feedAll_nil]

/-- R295, R299: what a chunk can end in. -/
theorem feedChunk_cases (bytes : List Byte) (s : State) :
    (s.rstate = .closed ∧ feedChunk bytes s = ⟨.closed, bytes.length, [], s⟩) ∨
    ((feedChunk bytes s).status = .framingFault ∧ Faulted (feedChunk bytes s).state) ∨
    ((feedChunk bytes s).status = .ok ∧ (feedChunk bytes s).state.rstate ≠ .closed) := by
  by_cases h : s.rstate = .closed
  · exact .inl ⟨h, feedChunk_of_closed bytes h⟩
  · rw [feedChunk_of_open bytes h]
    exact .inr (feedAll_open_cases bytes h)

/-- R299: a chunk of one byte is that byte. -/
theorem feedChunk_singleton (b : Byte) (s : State) : feedChunk [b] s = feedByte b s := by
  by_cases h : s.rstate = .closed
  · rw [feedChunk_of_closed _ h, feedByte_of_closed b h]
    rfl
  · rw [feedChunk_of_open _ h]
    rcases feedByte_open_cases b h with ⟨hst, _⟩ | ⟨hst, hinfo, _⟩
    · exact feedAll_cons_of_fault hst []
    · rw [feedAll_cons_of_ok hst, feedAll_nil, List.append_nil, ← hst, ← hinfo]

/-- R299: `R.FEED` is the `R.FEEDN` of one byte. -/
theorem exec_rFeed_eq_rFeedn (b : Byte) (s : State) : exec (.rFeed b) s = exec (.rFeedn [b]) s := by
  change (feedByte b s).respond = (feedChunk [b] s).respond
  rw [feedChunk_singleton]

/-- R31: an intake writes the reassembler's part of the state and `rout` alone. -/
theorem feedChunk_onto_self (bytes : List Byte) (s : State) : (feedChunk bytes s).onto s = feedChunk bytes s :=
  (feedChunk_graft bytes (s := s) (u := s) rfl).symm

/-- R21: no response enters an intake. -/
theorem feedChunk_with_resp (bytes : List Byte) (s : State) (resp : Option Response) :
    feedChunk bytes { s with resp := resp } =
      { feedChunk bytes s with state := { (feedChunk bytes s).state with resp := resp } } := by
  calc feedChunk bytes { s with resp := resp }
      = (feedChunk bytes s).onto { s with resp := resp } :=
        feedChunk_graft bytes (s := s) (u := { s with resp := resp }) rfl
    _ = { (feedChunk bytes s).onto s with state := { ((feedChunk bytes s).onto s).state with resp := resp } } := rfl
    _ = { feedChunk bytes s with state := { (feedChunk bytes s).state with resp := resp } } := by
      rw [feedChunk_onto_self]

theorem exec_rFeedn_setResp (bytes : List Byte) (s : State) (r : Response) :
    exec (.rFeedn bytes) (s.setResp r) = exec (.rFeedn bytes) s := by
  change (feedChunk bytes { s with resp := some r }).respond = (feedChunk bytes s).respond
  rw [feedChunk_with_resp]
  rfl

/-- R330: an intake of an open reassembler answers with its events. -/
theorem Feed.respond_of_open {q : Feed} (h : q.status ≠ .closed) :
    q.respond = .next (q.state.setResp ⟨q.status, q.info, .events q.events⟩) := by
  rw [Feed.respond, if_neg h]

theorem exec_rFeedn_of_open (bytes : List Byte) {s : State} (h : s.rstate ≠ .closed) :
    exec (.rFeedn bytes) s =
      .next ((feedAll bytes s).state.setResp ⟨(feedAll bytes s).status, (feedAll bytes s).info,
        .events (feedAll bytes s).events⟩) := by
  change (feedChunk bytes s).respond = _
  rw [feedChunk_of_open bytes h, Feed.respond_of_open (feedAll_status_ne_closed bytes h)]

theorem exec_rFeed_of_open (b : Byte) {s : State} (h : s.rstate ≠ .closed) :
    exec (.rFeed b) s =
      .next ((feedByte b s).state.setResp ⟨(feedByte b s).status, (feedByte b s).info,
        .events (feedByte b s).events⟩) := by
  rw [exec_rFeed_eq_rFeedn, exec_rFeedn_of_open [b] h, ← feedChunk_of_open [b] h, feedChunk_singleton]

/-- Settles O46, from the two ways in which the first byte can end (R299). -/
theorem feedChunkFoldsFeedByte : Obligations.FeedChunkFoldsFeedByte := by
  intro s b rest
  refine ⟨fun h bytes => (closedReassemblerDiscards s b bytes h).2, fun h => ⟨exec_rFeedn_of_open [] h, ?_⟩⟩
  refine ⟨_, _, _, _, _, exec_rFeed_of_open b h, rfl, exec_rFeedn_of_open (b :: rest) h, ?_⟩
  rcases feedByte_open_cases b h with ⟨hst, _⟩ | ⟨hst, _, hopen⟩
  · rw [feedAll_cons_of_fault hst]
    exact ⟨fun _ => rfl, fun hne => absurd hst hne⟩
  · rw [feedAll_cons_of_ok hst]
    refine ⟨fun hfault => by simp [hst] at hfault, fun _ => ⟨hst, ?_⟩⟩
    exact ⟨_, _, _, _, (exec_rFeedn_setResp rest _ _).trans (exec_rFeedn_of_open rest hopen), rfl, rfl⟩

/-! ## A sequence of chunks -/

/-- R300: two chunks, one after the other, leave the state that they leave as one. -/
theorem feedAll_append_state (front back : List Byte) {s : State} (h : s.rstate ≠ .closed) :
    (feedAll (front ++ back) s).state = (feedChunk back (feedAll front s).state).state := by
  induction front generalizing s with
  | nil => rw [List.nil_append, feedAll_nil, feedChunk_of_open back h]
  | cons b front ih =>
    rw [List.cons_append]
    rcases feedByte_open_cases b h with ⟨hst, hfault⟩ | ⟨hst, _, hopen⟩
    · rw [feedAll_cons_of_fault hst, feedAll_cons_of_fault hst, feedChunk_of_closed back hfault.rstate]
    · rw [feedAll_cons_of_ok hst, feedAll_cons_of_ok hst]
      exact ih hopen

theorem feedChunk_append_state (front back : List Byte) (s : State) :
    (feedChunk (front ++ back) s).state = (feedChunk back (feedChunk front s).state).state := by
  by_cases h : s.rstate = .closed
  · simp only [feedChunk_of_closed _ h]
  · rw [feedChunk_of_open _ h, feedChunk_of_open front h]
    exact feedAll_append_state front back h

/-- `t` is `s` but for the last response. -/
def ButResp (s t : State) : Prop :=
  ∃ resp, t = { s with resp := resp }

theorem ButResp.eq {s t : State} (h : ButResp s t) : { t with resp := none } = { s with resp := none } := by
  obtain ⟨resp, rfl⟩ := h
  rfl

/-- R295, R299: whatever it answers, a chunk leaves the state of its intake. -/
theorem exec_rFeedn_butResp (bytes : List Byte) (s : State) :
    ∃ t, exec (.rFeedn bytes) s = .next t ∧ ButResp (feedChunk bytes s).state t :=
  ⟨_, rfl, _, rfl⟩

/-- R300: chunks fed one after another leave the state that they leave as one chunk. -/
theorem runOps_rFeedn (chunks : List (List Byte)) (s : State) :
    ∃ rs t, runOps (chunks.map .rFeedn) s = some (rs, t) ∧ ButResp (feedChunk chunks.flatten s).state t := by
  induction chunks generalizing s with
  | nil =>
    refine ⟨[], s, rfl, s.resp, ?_⟩
    rw [List.flatten_nil, feedChunk_nil]
  | cons c rest ih =>
    obtain ⟨u, hexec, resp, rfl⟩ := exec_rFeedn_butResp c s
    obtain ⟨rs, t, hrun, resp', ht⟩ := ih { (feedChunk c s).state with resp := resp }
    refine ⟨_, t, runOps_cons hexec hrun, resp', ?_⟩
    rw [ht, feedChunk_with_resp, List.flatten_cons, feedChunk_append_state]

/-- R300: bytes fed one by one leave the state that they leave as one chunk. -/
theorem runOps_rFeed (bytes : List Byte) (s : State) :
    ∃ rs t, runOps (bytes.map .rFeed) s = some (rs, t) ∧ ButResp (feedChunk bytes s).state t := by
  have hsingle : (bytes.map fun b => [b]).flatten = bytes := by
    rw [← List.flatMap_def, List.flatMap_singleton']
  have hrun := runOps_rFeedn (bytes.map fun b => [b]) s
  rw [hsingle, List.map_map] at hrun
  rwa [runOps_map_congr exec_rFeed_eq_rFeedn]

/-- Settles O47: both ways of feeding leave the state of one chunk (R300). -/
theorem chunkingDoesNotMatter : Obligations.ChunkingDoesNotMatter := by
  intro s chunks
  obtain ⟨rs, t, hchunks, ht⟩ := runOps_rFeedn chunks s
  obtain ⟨rs', t', hbytes, ht'⟩ := runOps_rFeed chunks.flatten s
  obtain ⟨u, hone, hu⟩ := exec_rFeedn_butResp chunks.flatten s
  exact ⟨rs, t, rs', t', u, hchunks, hbytes, hone, ht.eq.trans hu.eq.symm, ht'.eq.trans hu.eq.symm⟩

end Sys2Proof.Machine
end

section
/-! PROOFS. 47_reassembler.md R296, R297 and R304, last sentence: the header that the reassembler parses out of bytes is
the one that stands in their bits, and the five ways in which its validation can end. -/

namespace Sys2Proof.Machine

/-! ## The header in the bits of the bytes -/

section
variable {m : List Byte} {k : Nat}

/-- R62: the field of 8 bits at a byte's place is the byte. -/
theorem memRead_bytesToBits (h : k < m.length) : memRead (bytesToBits m) (8 * k) 8 = (m.getD k 0).toNat := by
  have hbyte : (readBytes (bytesToBits m) 0 ((bytesToBits m).length / 8))[k]? = some (m.getD k 0) := by
    change (bitsToBytes (bytesToBits m))[k]? = _
    rw [bitsToBytes_bytesToBits, List.getD_eq_getElem _ _ h, List.getElem?_eq_getElem h]
  have hvalue := toNat_of_getElem?_readBytes (by simp) hbyte
  rw [hvalue, Nat.zero_add, memRead_eq_memValue _ _ _ (by simp; omega)]

/-- R15, R97: two bytes are a field of 16 bits. -/
theorem memRead_bytesToBits_be16 (h : k + 1 < m.length) :
    memRead (bytesToBits m) (8 * k) 16 = be16 (m.getD k 0) (m.getD (k + 1) 0) := by
  rw [be16, ← memRead_bytesToBits h, ← memRead_bytesToBits (Nat.lt_of_succ_lt h)]
  exact memRead_add (bytesToBits m) (8 * k) 8 8 (by simp; omega)

/-- R15, R97: four bytes are a field of 32 bits. -/
theorem memRead_bytesToBits_be32 (h : k + 3 < m.length) :
    memRead (bytesToBits m) (8 * k) 32 =
      be32 (m.getD k 0) (m.getD (k + 1) 0) (m.getD (k + 2) 0) (m.getD (k + 3) 0) := by
  have hhigh := memRead_bytesToBits_be16 (m := m) (k := k) (by omega)
  have hlow : memRead (bytesToBits m) (8 * k + 16) 16 = be16 (m.getD (k + 2) 0) (m.getD (k + 3) 0) :=
    memRead_bytesToBits_be16 (m := m) (k := k + 2) h
  have hsplit := memRead_add (bytesToBits m) (8 * k) 16 16 (by simp; omega)
  rw [hsplit, hhigh, hlow, be16, be16, be32]
  omega

/-- R90, R296: the ten bytes hold the header where its layout puts it. -/
theorem parseHeader_eq_headerAt (h : 10 ≤ m.length) : parseHeader m = headerAt (bytesToBits m) 0 := by
  have hlen : 80 ≤ (bytesToBits m).length := by
    rw [length_bytesToBits]
    omega
  have hword : be16 (m.getD 0 0) (m.getD 1 0) = memRead (bytesToBits m) 0 16 :=
    (memRead_bytesToBits_be16 (k := 0) (by omega)).symm
  have hver := slice_memRead (bytesToBits m) 0 16 12 10 (by omega) (by decide) (by decide)
  have htype := slice_memRead (bytesToBits m) 0 16 9 0 (by omega) (by decide) (by decide)
  have hlength := memRead_bytesToBits_be32 (m := m) (k := 2) (by omega)
  have hid := memRead_bytesToBits_be32 (m := m) (k := 6) (by omega)
  simp only [parseHeader, headerAt, hword, hver, htype, ← hlength, ← hid]

end

/-- R296: the type is a field of 10 bits. -/
theorem type_parseHeader_le (m : List Byte) : (parseHeader m).type ≤ 1023 :=
  Nat.le_of_lt_succ (Nat.mod_lt _ (by decide))

/-- R296: a header is read from the first ten bytes alone. -/
theorem parseHeader_append {m : List Byte} (h : 10 ≤ m.length) (more : List Byte) :
    parseHeader (m ++ more) = parseHeader m := by
  have hbyte (k : Nat) (hk : k < 10) : (m ++ more).getD k 0 = m.getD k 0 :=
    List.getD_append _ _ _ _ (by omega)
  simp only [parseHeader, hbyte 0, hbyte 1, hbyte 2, hbyte 3, hbyte 4, hbyte 5, hbyte 6, hbyte 7, hbyte 8, hbyte 9,
    Nat.reduceLT]

/-! ## Validation -/

section
variable {cfg : Config} {h : Header}

/-- R297: the four conditions that a valid header meets. -/
theorem validate_eq_none_iff :
    validate cfg h = none ↔ h.ver = cfg.supportedVersion.toNat ∧ (h.type ≤ 127 ∨ h.type = 1023) ∧ 10 ≤ h.length ∧
      h.length ≤ cfg.maxMsgLen := by
  unfold validate
  split_ifs <;> simp <;> omega

end

/-- Settles O43: the fields by their places in the bits, and the conditions in the order of `validate`. -/
theorem headerParseAndValidation : Obligations.HeaderParseAndValidation := by
  refine ⟨fun m hm => ?_, fun cfg h => ⟨fun hver => ?_, fun hver => ⟨fun htype => ?_, fun htype => ⟨fun hshort => ?_,
    fun hten hlong => ?_, fun hten hmax => ?_⟩⟩⟩⟩
  · have hfields := headerAt_eq (s := State.reset.setDbuf (bytesToBits m) 0) (by simp; omega)
    rw [parseHeader_eq_headerAt hm]
    simpa using hfields
  · exact ⟨.badVersion, by simp [validate, hver], rfl⟩
  · exact ⟨.badType, by simp [validate, hver, htype], rfl⟩
  · have hrange : ¬(127 < h.type ∧ h.type ≠ 1023) := by omega
    exact ⟨.lengthTooSmall, by simp only [validate, hver, hrange]; simp [hshort], rfl⟩
  · have hrange : ¬(127 < h.type ∧ h.type ≠ 1023) := by omega
    exact ⟨.lengthTooLarge, by simp only [validate, hver, hrange]; simp [hten, hlong], rfl⟩
  · exact validate_eq_none_iff.mpr ⟨hver, htype, hten, hmax⟩

/-! ## Whole messages -/

/-- R304: a whole message holds at least its header. -/
theorem messageOk_iff {cfg : Config} {m : List Byte} :
    messageOk cfg m = true ↔ validate cfg (parseHeader m) = none ∧ (parseHeader m).length = m.length := by
  simp [messageOk]

/-- Settles O50: loaded, the message stands at the cursor with the header that the reassembler parsed, and its declared
length is that of the buffer. -/
theorem emittedMessagesDecode : Obligations.EmittedMessagesDecode := by
  intro s m hm hfits
  obtain ⟨hvalid, hlength⟩ := messageOk_iff.mp hm
  obtain ⟨-, -, hten, -⟩ := validate_eq_none_iff.mp hvalid
  refine ⟨_, _, exec_dLoad_of_fits hfits, exec_dMsghdr_of_header ?_ (type_parseHeader_le m) hten ?_, ?_⟩
  · exact (parseHeader_eq_headerAt (hlength ▸ hten)).symm
  · simp [hlength]
  · simp [hlength]

end Sys2Proof.Machine
end

section
/-! PROOFS. 47_reassembler.md R304: what every intake keeps of the reassembler's invariant (10_state.md R26 to R28), and the
bytes that it holds and puts out. -/

namespace Sys2Proof.Machine

/-! ## The reassembler's invariant in each state -/

section
variable {s : State}

theorem reassemblerOk_iff_of_header (h : s.rstate = .awaitingHeader) :
    reassemblerOk s = true ↔ s.hcnt ≤ 9 ∧ s.mlen = 0 ∧ s.mbuf = [] := by
  simp [reassemblerOk, h, and_assoc]

theorem reassemblerOk_iff_of_body (h : s.rstate = .awaitingBody) :
    reassemblerOk s = true ↔ s.hcnt = 0 ∧ 10 ≤ s.mcnt ∧ s.mcnt < s.mlen ∧ s.mlen ≤ s.cfg.maxMsgLen ∧
      validate s.cfg (parseHeader s.mbuf) = none ∧ (parseHeader s.mbuf).length = s.mlen := by
  simp [reassemblerOk, h, and_assoc]

theorem reassemblerOk_iff_of_closed (h : s.rstate = .closed) :
    reassemblerOk s = true ↔ s.hcnt = 0 ∧ s.mlen = 0 ∧ s.mbuf = [] := by
  simp [reassemblerOk, h, and_assoc]

end

/-! ## One byte -/

/-- R292 to R294, R298, R303: what a byte does to a reassembler that meets its invariant. The bytes held, with the new
one behind them, are held still, are put out as a whole message, or are a header that is refused. -/
inductive Intake (b : Byte) (s : State) : Feed → Prop where
  | discarded (h : s.rstate = .closed) : Intake b s ⟨.closed, 1, [], s⟩
  | held {t : State} (hok : reassemblerOk t = true) (hheld : heldBytes t = heldBytes s ++ [b]) :
    Intake b s ⟨.ok, 0, [], t⟩
  | completed {t : State} {m : List Byte} (hok : reassemblerOk t = true) (hm : m = heldBytes s ++ [b])
    (hwhole : messageOk s.cfg m = true) (hempty : heldBytes t = []) : Intake b s ⟨.ok, 0, [.messageComplete m], t⟩
  | refused {t : State} (c : Cause) (hok : reassemblerOk t = true) :
    Intake b s ⟨.framingFault, c.number, [.framingFault c], t⟩

/-- R292, R297, R303: the tenth header byte. -/
theorem finishHeader_intake {b : Byte} {s : State} (h : s.rstate = .awaitingHeader) (hok : reassemblerOk s = true)
    {hdr : Vector Byte 10} (hhdr : hdr.toList = heldBytes s ++ [b]) : Intake b s (finishHeader hdr s) := by
  obtain ⟨_, hmlen, hmbuf⟩ := (reassemblerOk_iff_of_header h).mp hok
  rcases finishHeader_cases hdr s with ⟨c, _, e⟩ | ⟨hvalid, hten, e⟩ | ⟨hvalid, hten, e⟩ <;> rw [e]
  · exact .refused c ((reassemblerOk_iff_of_closed rfl).mpr ⟨rfl, hmlen, hmbuf⟩)
  · refine .completed
      ((reassemblerOk_iff_of_header (s := (s.setHdr hdr 0).emit _) h).mpr ⟨Nat.zero_le 9, hmlen, hmbuf⟩) hhdr ?_ ?_
    · exact messageOk_iff.mpr ⟨hvalid, by simpa using hten⟩
    · simp [heldBytes, h]
  · obtain ⟨-, -, hleast, hmost⟩ := validate_eq_none_iff.mp hvalid
    refine .held ((reassemblerOk_iff_of_body rfl).mpr ⟨rfl, ?_, ?_, hmost, hvalid, rfl⟩) hhdr
    · simp
    · simp; omega

theorem feedByte_intake (b : Byte) {s : State} (hok : reassemblerOk s = true) : Intake b s (feedByte b s) := by
  cases h : s.rstate with
  | closed =>
    rw [feedByte_of_closed b h]
    exact .discarded h
  | awaitingHeader =>
    obtain ⟨hcnt, hmlen, hmbuf⟩ := (reassemblerOk_iff_of_header h).mp hok
    by_cases hnine : s.hcnt = 9
    · obtain ⟨hdr, hhdr, e⟩ := feedByte_of_header_end b h hnine
      rw [e]
      exact finishHeader_intake h hok (by rw [hhdr, heldBytes, h, hnine])
    · rw [feedByte_of_header_part b h (by omega)]
      have hrstate : (s.setHdr (s.hdr.setIfInBounds s.hcnt b) (s.hcnt + 1)).rstate = .awaitingHeader := h
      refine .held ((reassemblerOk_iff_of_header hrstate).mpr ⟨?_, hmlen, hmbuf⟩) ?_
      · simp; omega
      · simp only [heldBytes, h, State.setHdr_rstate, State.setHdr_hdr, State.setHdr_hcnt]
        exact take_succ_setIfInBounds s.hdr b (by omega)
  | awaitingBody =>
    obtain ⟨hhcnt, hten, hlt, hmax, hvalid, hlength⟩ := (reassemblerOk_iff_of_body h).mp hok
    have hheader := parseHeader_append hten [b]
    have hheld : heldBytes s = s.mbuf := by rw [heldBytes, h]
    have hlen : (s.mbuf ++ [b]).length = s.mcnt + 1 := List.length_append
    by_cases hlast : s.mcnt + 1 = s.mlen
    · rw [feedByte_of_body_end b h hlast]
      refine .completed ((reassemblerOk_iff_of_header rfl).mpr ⟨?_, rfl, rfl⟩) (by rw [hheld]) ?_ ?_
      · simp [hhcnt]
      · rw [messageOk_iff, hheader, hlen, hlast]
        exact ⟨hvalid, hlength⟩
      · simp [heldBytes, hhcnt]
    · rw [feedByte_of_body_part b h hlast]
      refine .held ((reassemblerOk_iff_of_body rfl).mpr ⟨hhcnt, ?_, ?_, hmax, ?_, ?_⟩) (by rw [hheld]; rfl)
      · simp [hlen]; omega
      · simp [hlen]; omega
      · simpa [hheader] using hvalid
      · simpa [hheader] using hlength

/-! ## A chunk -/

theorem messageBytes_append (front back : List Event) :
    messageBytes (front ++ back) = messageBytes front ++ messageBytes back :=
  List.flatMap_append

/-- R304: an intake keeps the reassembler's invariant, puts out whole messages only, and where it puts out no framing
fault it loses no byte. -/
structure Conserves (bytes : List Byte) (s : State) (q : Feed) : Prop where
  ok : reassemblerOk q.state = true
  whole : ∀ m, Event.messageComplete m ∈ q.events → messageOk s.cfg m = true
  bytes : s.rstate ≠ .closed → (∀ c, Event.framingFault c ∉ q.events) →
    messageBytes q.events ++ heldBytes q.state = heldBytes s ++ bytes

theorem Intake.conserves {b : Byte} {s : State} {q : Feed} (hok : reassemblerOk s = true) (h : Intake b s q) :
    Conserves [b] s q := by
  cases h with
  | discarded h => exact ⟨hok, nofun, fun hopen => absurd h hopen⟩
  | held hok' hheld => exact ⟨hok', nofun, fun _ _ => hheld⟩
  | completed hok' hm hwhole hempty =>
    refine ⟨hok', fun m' hm' => ?_, fun _ _ => ?_⟩
    · cases List.mem_singleton.mp hm'
      exact hwhole
    · simp [messageBytes, hempty, hm]
  | refused c hok' =>
    refine ⟨hok', fun m hm => ?_, fun _ hnone => absurd (List.mem_singleton_self _) (hnone c)⟩
    cases List.mem_singleton.mp hm

/-- R298: a framing fault is put out. -/
theorem Intake.fault_of_status {b : Byte} {s : State} {q : Feed} (h : Intake b s q) (hst : q.status = .framingFault) :
    ∃ c, Event.framingFault c ∈ q.events := by
  cases h with
  | refused c _ => exact ⟨c, List.mem_singleton_self _⟩
  | _ => cases hst

theorem feedAll_conserves (bytes : List Byte) {s : State} (hok : reassemblerOk s = true) (hopen : s.rstate ≠ .closed) :
    Conserves bytes s (feedAll bytes s) := by
  induction bytes generalizing s with
  | nil => exact ⟨hok, nofun, fun _ _ => (List.append_nil _).symm⟩
  | cons b rest ih =>
    have hbyte := (feedByte_intake b hok).conserves hok
    rcases feedByte_open_cases b hopen with ⟨hst, _⟩ | ⟨hst, _, hopen'⟩
    · rw [feedAll_cons_of_fault hst]
      obtain ⟨c, hc⟩ := (feedByte_intake b hok).fault_of_status hst
      exact ⟨hbyte.ok, hbyte.whole, fun _ hnone => absurd hc (hnone c)⟩
    · have hrest := ih hbyte.ok hopen'
      rw [feedAll_cons_of_ok hst]
      refine ⟨hrest.ok, fun m hm => ?_, fun _ hnone => ?_⟩
      · rcases List.mem_append.mp hm with hm | hm
        · exact hbyte.whole m hm
        · exact feedByte_cfg b s ▸ hrest.whole m hm
      · have hfirst := hbyte.bytes hopen fun c hc => hnone c (List.mem_append_left _ hc)
        have hlater := hrest.bytes hopen' fun c hc => hnone c (List.mem_append_right _ hc)
        simp only [messageBytes_append, List.append_assoc, hlater]
        rw [← List.append_assoc, hfirst, List.append_assoc, List.singleton_append]

theorem feedChunk_conserves (bytes : List Byte) {s : State} (hok : reassemblerOk s = true) :
    Conserves bytes s (feedChunk bytes s) := by
  by_cases h : s.rstate = .closed
  · rw [feedChunk_of_closed bytes h]
    exact ⟨hok, nofun, fun hopen => absurd h hopen⟩
  · rw [feedChunk_of_open bytes h]
    exact feedAll_conserves bytes hok h

/-- R29, R299: what a chunk puts out it also returns. -/
theorem feedChunk_rout (bytes : List Byte) (s : State) :
    (feedChunk bytes s).state.rout = s.rout ++ (feedChunk bytes s).events := by
  by_cases h : s.rstate = .closed
  · simp [feedChunk_of_closed bytes h]
  · rw [feedChunk_of_open bytes h, feedAll_rout]

/-- Settles O48: the chunks are one chunk, whose bytes are conserved. -/
theorem messagesAreSlicesOfStream : Obligations.MessagesAreSlicesOfStream := by
  rintro s chunks ⟨-, -, hok⟩ hopen
  obtain ⟨rs, t, hrun, resp, rfl⟩ := runOps_rFeedn chunks s
  have hbytes := (feedChunk_conserves chunks.flatten hok).bytes hopen
  exact ⟨rs, _, (feedChunk chunks.flatten s).events, hrun, feedChunk_rout chunks.flatten s, hbytes⟩

end Sys2Proof.Machine
end

section
/-! PROOFS. 60_exceptions.md R346, R348, R358: everything that an instruction can do, said once: its statuses, what a
success changes and what a failure leaves changed. -/

namespace Sys2Proof.Machine

/-! ## What a success and a failure leave -/

/-- The four operations made of several reads (R348). -/
def Composite (i : Instr) : Prop :=
  (∃ exp, i = .dMsghdr exp) ∨ i = .dParhdr ∨ (∃ e, i = .dCustmsg e) ∨ ∃ e, i = .dCustpar e

/-- The cursor has moved on and, where it stood inside the buffer, stands there still. -/
def Advanced (s t : State) : Prop :=
  ∃ cur, s.dcur ≤ cur ∧ (s.dcur ≤ s.dlen → cur ≤ s.dlen) ∧ t = s.setDcur cur

theorem Advanced.refl (s : State) : Advanced s s :=
  ⟨s.dcur, le_rfl, id, rfl⟩

theorem Advanced.setDcur (s : State) {cur : Nat} (h : s.dcur ≤ cur) (hlen : cur ≤ s.dlen) :
    Advanced s (s.setDcur cur) :=
  ⟨cur, h, fun _ => hlen, rfl⟩

theorem Advanced.trans {s t u : State} (hst : Advanced s t) (htu : Advanced t u) : Advanced s u := by
  obtain ⟨cur, hle, hlen, rfl⟩ := hst
  obtain ⟨cur', hle', hlen', rfl⟩ := htu
  exact ⟨cur', hle.trans hle', fun h => hlen' (hlen h), rfl⟩

/-- What an operation that succeeds can have done; the intake of bytes is not spoken of. -/
inductive Done (s : State) : Instr → State → Prop where
  | reported (i : Instr) : Done s i s
  | reset : Done s .reset (((s.setDbuf [] 0).setEbits []).clearReassembler .awaitingHeader)
  | loaded {bytes : List Byte} (h : exceeds s.cfg.dcapBits (8 * bytes.length) = false) :
    Done s (.dLoad bytes) (s.setDbuf (bytesToBits bytes) 0)
  | moved (i : Instr) {cur : Nat} (h : s.dcur ≤ s.dlen → cur ≤ s.dlen) : Done s i (s.setDcur cur)
  | wrote (i : Instr) {bits : List Bool}
    (h : exceeds s.cfg.ecapBits s.elen = false → exceeds s.cfg.ecapBits bits.length = false) :
    Done s i (s.setEbits bits)
  | opened : Done s .rOpen (s.clearReassembler .awaitingHeader)
  | closed : Done s .rClose (s.clearReassembler .closed)

theorem Advanced.done {s t : State} (h : Advanced s t) (i : Instr) : Done s i t := by
  obtain ⟨cur, -, hlen, rfl⟩ := h
  exact .moved i hlen

/-- What an operation that fails can have done; a framing fault is not spoken of (R348). -/
def Left (s : State) (i : Instr) (t : State) : Prop :=
  t = s ∨ Composite i ∧ Advanced s t

/-! ## How a part of an operation ends -/

/-- A part of an operation that returns leaves a state that satisfies `Q`; one that raises a status raises one of
`marks` and leaves a state that satisfies `R`. -/
inductive Ret.Ends {α : Type} (Q R : State → Prop) (marks : List Status) : Ret α → Prop where
  | ok (a : α) {t : State} (h : Q t) : Ret.Ends Q R marks (.ok a t)
  | raised {st : Status} (info : Nat) {t : State} (hst : st ∈ marks) (h : R t) :
    Ret.Ends Q R marks (.raised st info t)

section
variable {α β : Type} {Q Q' R R' : State → Prop} {marks : List Status} {s t : State}

theorem Ret.Ends.mono {x : Ret α} (h : x.Ends Q R marks) (hQ : ∀ t, Q t → Q' t) (hR : ∀ t, R t → R' t) :
    x.Ends Q' R' marks := by
  cases h with
  | ok a h => exact .ok a (hQ _ h)
  | raised info hst h => exact .raised info hst (hR _ h)

theorem Ret.Ends.andThen {x : Ret α} {f : α → State → Ret β} (h : x.Ends Q R marks)
    (hf : ∀ a t, Q t → (f a t).Ends Q' R marks) : (x.andThen f).Ends Q' R marks := by
  cases h with
  | ok a h => exact hf a _ h
  | raised info hst h => exact .raised info hst h

theorem Ret.Ends.ite {c : Prop} [Decidable c] {x y : Ret α} (hx : c → x.Ends Q R marks)
    (hy : ¬c → y.Ends Q R marks) : (if c then x else y).Ends Q R marks := by
  by_cases h : c
  · simpa only [h, if_true] using hx h
  · simpa only [h, if_false] using hy h

/-- One read among several: what it changes is added to what those before it changed. -/
theorem Ret.Ends.after {x : Ret α} (h : Advanced s t) (hx : x.Ends (Advanced t) (· = t) marks) :
    x.Ends (Advanced s) (Advanced s) marks :=
  hx.mono (fun _ => h.trans) (fun _ hu => hu ▸ h)

/-! ## Decode side -/

section
variable (hmark : .truncatedInput ∈ marks)
include hmark

theorem requireBits_ends (need : Nat) (s : State) :
    (requireBits need s).Ends (fun t => t = s ∧ s.dcur + need ≤ s.dlen) (· = s) marks :=
  .ite (fun _ => .raised _ hmark rfl) fun h => .ok _ ⟨rfl, Nat.not_lt.mp h⟩

theorem readField_ends_exactly (w : Nat) (s : State) :
    (readField w s).Ends (fun t => t = s.setDcur (s.dcur + w) ∧ s.dcur + w ≤ s.dlen) (· = s) marks :=
  (requireBits_ends hmark w s).andThen fun _ t ⟨ht, h⟩ => by
    subst ht
    exact .ok _ ⟨rfl, h⟩

theorem readField_ends (w : Nat) (s : State) : (readField w s).Ends (Advanced s) (· = s) marks :=
  (readField_ends_exactly hmark w s).mono (fun _ ⟨ht, h⟩ => ht ▸ .setDcur s (Nat.le_add_right _ _) h) fun _ => id

theorem readUnsigned_ends (w : Nat) (s : State) : (readUnsigned w s).Ends (Advanced s) (· = s) marks :=
  (readField_ends hmark w s).andThen fun _ _ h => .ok _ h

theorem readSigned_ends (w : Nat) (s : State) : (readSigned w s).Ends (Advanced s) (· = s) marks :=
  (readField_ends hmark w s).andThen fun _ _ h => .ok _ h

theorem readWhole_ends (need : Nat) (out : List Bool → Nat → Results) (s : State) :
    (readWhole need out s).Ends (Advanced s) (· = s) marks :=
  (requireBits_ends hmark need s).andThen fun _ t ⟨ht, h⟩ => by
    subst ht
    exact .ok _ (.setDcur t (Nat.le_add_right _ _) h)

theorem readOpaque_ends (hbad : .badOperand ∈ marks) (hodd : .notByteAligned ∈ marks) (endOff : Nat) (s : State) :
    (readOpaque endOff s).Ends (Advanced s) (· = s) marks :=
  .ite (fun _ => .raised _ hbad rfl) fun hcur =>
  .ite (fun _ => .raised _ hmark rfl) fun hlen =>
  .ite (fun _ => .raised _ hodd rfl) fun _ => .ok _ (.setDcur s (Nat.not_lt.mp hcur) (Nat.not_lt.mp hlen))

theorem readCustom_ends (hbad : .badOperand ∈ marks) (hodd : .notByteAligned ∈ marks) (w endOff : Nat) (s : State) :
    (readCustom w endOff s).Ends (Advanced s) (Advanced s) marks :=
  (Ret.Ends.after (.refl s) (readField_ends hmark 32 s)).andThen fun _ t h =>
  (Ret.Ends.after h (readField_ends hmark w t)).andThen fun _ t h =>
  (Ret.Ends.after h (readOpaque_ends hmark hbad hodd endOff t)).andThen fun _ _ h => .ok _ h

end

theorem requireAt_ends {st : Status} (hmark : st ∈ marks) (endOff : Nat) (s : State) :
    (requireAt endOff st s).Ends (Advanced s) (· = s) marks :=
  .ite (fun _ => .raised _ hmark rfl) fun _ => .ok _ (.refl s)

/-! ## Encode side -/

theorem exceeds_zero (cap : Option Nat) : exceeds cap 0 = false :=
  (exceeds_eq_false_iff cap 0).mpr fun _ _ => Nat.zero_le _

/-- The encode buffer has other contents, which fit where those before did. -/
def Wrote (s t : State) : Prop :=
  ∃ bits, (exceeds s.cfg.ecapBits s.elen = false → exceeds s.cfg.ecapBits bits.length = false) ∧ t = s.setEbits bits

theorem appendBits_ends (hmark : .overflow ∈ marks) (bits : List Bool) (s : State) :
    (appendBits bits s).Ends (Wrote s) (· = s) marks := by
  rcases appendBits_cases bits s with ⟨h, e⟩ | ⟨_, e⟩ <;> rw [e]
  · exact .ok _ ⟨_, fun _ => by simpa [State.elen] using h, rfl⟩
  · exact .raised _ hmark rfl

theorem appendHeader_ends (hmark : .overflow ∈ marks) (bits : List Bool) (s : State) :
    (appendHeader bits s).Ends (Wrote s) (· = s) marks :=
  (appendBits_ends hmark bits s).andThen fun _ _ h => .ok _ h

/-- R260: the operands are checked before anything is written. -/
theorem requireFit_andThen_ends {operands : List (Nat × Nat)} {body : Unit → State → Ret Results}
    (hmark : .badOperand ∈ marks) (hbody : (body () s).Ends (Wrote s) (· = s) marks) :
    ((requireFit operands s).andThen body).Ends (Wrote s) (· = s) marks := by
  unfold requireFit
  cases firstMisfit operands with
  | some v => exact .raised v hmark rfl
  | none => exact hbody

theorem patchLength_ends (hbad : .badOperand ∈ marks) (hodd : .notByteAligned ∈ marks) (hover : .overflow ∈ marks)
    {hdrBits w : Nat} (hinside : 16 + w ≤ hdrBits) (greatest start : Nat) (s : State) :
    (patchLength hdrBits w greatest start s).Ends (Wrote s) (· = s) marks := by
  rcases patchLength_cases hdrBits w greatest start s with ⟨_, e⟩ | ⟨_, _, e⟩ | ⟨_, _, _, e⟩ | ⟨hlen, _, _, e⟩ <;> rw [e]
  · exact .raised _ hbad rfl
  · exact .raised _ hodd rfl
  · exact .raised _ hover rfl
  · refine .ok _ ⟨_, fun h => ?_, rfl⟩
    rw [length_memWrite _ _ _ _ (by simp only [State.elen] at hlen; omega)]
    exact h

end

/-! ## Everything an instruction can do -/

/-- The instruction is the `R.FEEDN` of the bytes, with the row of `R.FEEDN` (R299, log entry 1). -/
structure FeedsBytes (i : Instr) (bytes : List Byte) : Prop where
  exec_eq : ∀ s, exec i s = exec (.rFeedn bytes) s
  marked_eq : marked i = marked (.rFeedn bytes)
  bytes_eq : ∀ b, i = .rFeed b → bytes = [b]

/-- Everything an instruction can do: it succeeds, it fails with a status of its row, or it takes bytes in (R346, R348). -/
inductive Does (s : State) (i : Instr) : State → Prop where
  | ok (results : Results) {t : State} (h : Done s i t) : Does s i (t.setResp ⟨.ok, 0, results⟩)
  | failed {st : Status} (info : Nat) {t : State} (hst : st ∈ marked i) (hne : st ≠ .framingFault) (h : Left s i t) :
    Does s i (t.setResp ⟨st, info, .absent⟩)
  | fed {bytes : List Byte} (h : FeedsBytes i bytes) (results : Results) :
    Does s i ((feedChunk bytes s).state.setResp
      ⟨(feedChunk bytes s).status, (feedChunk bytes s).info, results⟩)

/-- R346: only an intake can end in a framing fault. -/
theorem ne_framingFault_of_marked {i : Instr} {st : Status} (hi : unitOf i ≠ .reassembler) (hst : st ∈ marked i) :
    st ≠ .framingFault := by
  rintro rfl
  cases i <;> simp [marked, unitOf] at hst hi

theorem Ret.Ends.does {i : Instr} {s : State} {r : Ret Results} (hi : unitOf i ≠ .reassembler)
    (h : r.Ends (Done s i) (Left s i) (marked i)) : ∃ t, r.respond = .next t ∧ Does s i t := by
  cases h with
  | ok results h => exact ⟨_, rfl, .ok results h⟩
  | raised info hst h => exact ⟨_, rfl, .failed info hst (ne_framingFault_of_marked hi hst) h⟩

/-- R348: an operation made of one read moves the cursor if it succeeds. -/
theorem Ret.Ends.does_read {i : Instr} {s : State} {r : Ret Results} (hi : unitOf i ≠ .reassembler)
    (h : r.Ends (Advanced s) (· = s) (marked i)) : ∃ t, r.respond = .next t ∧ Does s i t :=
  (h.mono (fun _ ht => ht.done i) fun _ => .inl).does hi

/-- R348: an operation made of several reads may move the cursor and fail. -/
theorem Ret.Ends.does_composite {i : Instr} {s : State} {r : Ret Results} (hi : unitOf i ≠ .reassembler)
    (hcomposite : Composite i) (h : r.Ends (Advanced s) (Advanced s) (marked i)) :
    ∃ t, r.respond = .next t ∧ Does s i t :=
  (h.mono (fun _ ht => ht.done i) fun _ ht => .inr ⟨hcomposite, ht⟩).does hi

theorem Ret.Ends.does_write {i : Instr} {s : State} {r : Ret Results} (hi : unitOf i ≠ .reassembler)
    (h : r.Ends (Wrote s) (· = s) (marked i)) : ∃ t, r.respond = .next t ∧ Does s i t :=
  (h.mono (fun _ ⟨_, hfits, ht⟩ => ht ▸ .wrote i hfits) fun _ => .inl).does hi

/-! ## Every operation of the decode side -/

/-- R231 to R233: on a mismatch the cursor goes back over the word that was read. -/
theorem exec_dMsghdr_does (exp : Nat) (s : State) : ∃ t, exec (.dMsghdr exp) s = .next t ∧ Does s (.dMsghdr exp) t := by
  have hmark : .truncatedInput ∈ marked (.dMsghdr exp) := .head _
  have hword := (readField_ends_exactly hmark 16 s).mono (R' := Advanced s) (fun _ => id) fun t ht => ht ▸ .refl s
  refine Ret.Ends.does_composite (by simp [unitOf]) (.inl ⟨exp, rfl⟩) ?_
  refine .ite (fun _ => .raised _ (by simp [marked]) (.refl s)) fun _ => hword.andThen fun word t ⟨ht, h16⟩ => ?_
  have h : Advanced s t := ht ▸ .setDcur s (Nat.le_add_right _ _) h16
  refine .ite (fun _ => .raised _ (by simp [marked]) ?_) fun _ =>
    (Ret.Ends.after h (readField_ends hmark 32 t)).andThen fun length t h =>
    (Ret.Ends.after h (readField_ends hmark 32 t)).andThen fun id t h =>
    .ite (fun _ => .raised _ (by simp [marked]) h) fun _ =>
    .ite (fun _ => .raised _ (by simp [marked]) h) fun _ => .ok _ h
  have hback : t.setDcur (t.dcur - 16) = s := by
    rw [ht, State.setDcur_dcur, Nat.add_sub_cancel]
    rfl
  rw [hback]
  exact .refl s

/-- R235: either layout is read in parts. -/
theorem exec_dParhdr_does (s : State) : ∃ t, exec .dParhdr s = .next t ∧ Does s .dParhdr t := by
  have hmark : .truncatedInput ∈ marked .dParhdr := .head _
  have hmalformed : .malformedParameter ∈ marked .dParhdr := .tail _ (.head _)
  have h := Advanced.refl s
  refine Ret.Ends.does_composite (by decide) (.inr (.inl rfl)) ?_
  refine .ite (fun _ => .raised _ hmark h) fun _ => .ite (fun _ => ?_) fun _ => ?_
  · refine (Ret.Ends.after h (readField_ends hmark 8 s)).andThen fun b t h => ?_
    dsimp only
    cases tvLenOf t.cfg (slice b 6 0) with
    | none => exact .raised _ hmalformed h
    | some len => exact .ok _ h
  · exact (Ret.Ends.after h (readField_ends hmark 16 s)).andThen fun _ t h =>
      (Ret.Ends.after h (readField_ends hmark 16 t)).andThen fun _ _ h =>
      .ite (fun _ => .raised _ hmalformed h) fun _ => .ok _ h

theorem exec_decodeSide_does (i : Instr) (hi : unitOf i = .decodeSide) (s : State) :
    ∃ t, exec i s = .next t ∧ Does s i t := by
  have hne : unitOf i ≠ .reassembler := by
    rw [hi]
    decide
  cases i with
  | dLoad bytes =>
    exact Ret.Ends.does hne <|
      .ite (fun _ => .raised _ (.head _) (.inl rfl)) fun hfits => .ok _ (.loaded (Bool.eq_false_of_not_eq_true hfits))
  | dSeek off =>
    exact Ret.Ends.does hne <|
      .ite (fun _ => .raised _ (.head _) (.inl rfl)) fun hlen => .ok _ (.moved _ fun _ => Nat.not_lt.mp hlen)
  | dTell => exact (Ret.Ends.ok _ (.refl s)).does_read hne
  | dBool => exact (readUnsigned_ends (.head _) 1 s).does_read hne
  | dU8 => exact (readUnsigned_ends (.head _) 8 s).does_read hne
  | dU16 => exact (readUnsigned_ends (.head _) 16 s).does_read hne
  | dS16 => exact (readSigned_ends (.head _) 16 s).does_read hne
  | dU32 => exact (readUnsigned_ends (.head _) 32 s).does_read hne
  | dS32 => exact (readSigned_ends (.head _) 32 s).does_read hne
  | dU64 => exact (readUnsigned_ends (.head _) 64 s).does_read hne
  | dS64 => exact (readSigned_ends (.head _) 64 s).does_read hne
  | dBits w =>
    exact Ret.Ends.does_read hne <|
      .ite (fun _ => .raised _ (.tail _ (.head _)) rfl) fun _ => readUnsigned_ends (.head _) w s
  | dArr8 n => exact (readWhole_ends (.head _) _ _ s).does_read hne
  | dArr16 n => exact (readWhole_ends (.head _) _ _ s).does_read hne
  | dStr n => exact (readWhole_ends (.head _) _ _ s).does_read hne
  | dBitv n => exact (readWhole_ends (.head _) _ _ s).does_read hne
  | dOpaque endOff =>
    exact Ret.Ends.does_read hne <|
      (readOpaque_ends (.head _) (.tail _ (.head _)) (.tail _ (.tail _ (.head _))) endOff s).andThen
        fun _ _ h => .ok _ h
  | dMsghdr exp => exact exec_dMsghdr_does exp s
  | dMsgend endOff => exact (requireAt_ends (.head _) endOff s).does_read hne
  | dParhdr => exact exec_dParhdr_does s
  | dParend endOff => exact (requireAt_ends (.head _) endOff s).does_read hne
  | dCustmsg endOff =>
    exact (readCustom_ends (.head _) (.tail _ (.head _)) (.tail _ (.tail _ (.head _))) 8 endOff s).does_composite hne
      (.inr (.inr (.inl ⟨endOff, rfl⟩)))
  | dCustpar endOff =>
    exact (readCustom_ends (.head _) (.tail _ (.head _)) (.tail _ (.tail _ (.head _))) 32 endOff s).does_composite hne
      (.inr (.inr (.inr ⟨endOff, rfl⟩)))
  | _ => cases hi

/-! ## Every operation of the encode side -/

theorem exec_encodeSide_does (i : Instr) (hi : unitOf i = .encodeSide) (s : State) :
    ∃ t, exec i s = .next t ∧ Does s i t := by
  have hne : unitOf i ≠ .reassembler := by
    rw [hi]
    decide
  cases i with
  | eNew => exact ⟨_, rfl, .ok _ (.wrote _ fun _ => exceeds_zero s.cfg.ecapBits)⟩
  | eTell => exact ⟨_, rfl, .ok _ (.reported _)⟩
  | eRead =>
    exact Ret.Ends.does hne <| .ite (fun _ => .raised _ (.head _) (.inl rfl)) fun _ => .ok _ (.reported _)
  | eBool val => exact (appendBits_ends (.head _) _ s).does_write hne
  | eU8 val => exact (appendBits_ends (.head _) _ s).does_write hne
  | eU16 val => exact (appendBits_ends (.head _) _ s).does_write hne
  | eS16 val => exact (appendBits_ends (.head _) _ s).does_write hne
  | eU32 val => exact (appendBits_ends (.head _) _ s).does_write hne
  | eS32 val => exact (appendBits_ends (.head _) _ s).does_write hne
  | eU64 val => exact (appendBits_ends (.head _) _ s).does_write hne
  | eS64 val => exact (appendBits_ends (.head _) _ s).does_write hne
  | eBits w val =>
    exact Ret.Ends.does_write hne <|
      .ite (fun _ => .raised _ (.head _) rfl) fun _ => appendBits_ends (.tail _ (.head _)) _ s
  | eArr8 bytes => exact (appendBits_ends (.head _) _ s).does_write hne
  | eArr16 words => exact (appendBits_ends (.head _) _ s).does_write hne
  | eStr bytes => exact (appendBits_ends (.head _) _ s).does_write hne
  | eBitv bits => exact (appendBits_ends (.head _) _ s).does_write hne
  | eMsghdr ver type id =>
    exact (requireFit_andThen_ends (.head _) (appendHeader_ends (.tail _ (.head _)) _ s)).does_write hne
  | eMsglen start =>
    exact (patchLength_ends (.head _) (.tail _ (.head _)) (.tail _ (.tail _ (.head _))) (by decide) _ start s).does_write
      hne
  | eTvhdr type =>
    exact (requireFit_andThen_ends (.head _) (appendBits_ends (.tail _ (.head _)) _ s)).does_write hne
  | eTlvhdr type =>
    exact (requireFit_andThen_ends (.head _) (appendHeader_ends (.tail _ (.head _)) _ s)).does_write hne
  | eTlvlen start =>
    exact (patchLength_ends (.head _) (.tail _ (.head _)) (.tail _ (.tail _ (.head _))) (by decide) _ start s).does_write
      hne
  | eCustmsg vendor subtype bytes =>
    exact (requireFit_andThen_ends (.head _) (appendBits_ends (.tail _ (.head _)) _ s)).does_write hne
  | eCustpar vendor subtype bytes =>
    exact (requireFit_andThen_ends (.head _) (appendBits_ends (.tail _ (.head _)) _ s)).does_write hne
  | _ => cases hi

/-! ## Every operation of the reassembler -/

/-- An intake answers with the status and the info of its chunk (R299, R330). -/
theorem exec_does_of_feedsBytes (i : Instr) {bytes : List Byte} (h : FeedsBytes i bytes) (s : State) :
    ∃ t, exec i s = .next t ∧ Does s i t :=
  ⟨_, (h.exec_eq s).trans rfl, .fed h _⟩

theorem exec_reassembler_does (i : Instr) (hi : unitOf i = .reassembler) (s : State) :
    ∃ t, exec i s = .next t ∧ Does s i t := by
  cases i with
  | rOpen => exact ⟨_, rfl, .ok _ .opened⟩
  | rFeed b => exact exec_does_of_feedsBytes (.rFeed b) ⟨exec_rFeed_eq_rFeedn b, rfl, fun b' hb' => by cases hb'; rfl⟩ s
  | rFeedn bytes => exact exec_does_of_feedsBytes (.rFeedn bytes) ⟨fun _ => rfl, rfl, nofun⟩ s
  | rClose => exact ⟨_, rfl, .ok _ .closed⟩
  | rStat => exact ⟨_, rfl, .ok _ (.reported _)⟩
  | msghdr reserved ver type length id => exact exec_does_of_feedsBytes (.msghdr reserved ver type length id) ⟨fun _ => rfl, rfl, nofun⟩ s
  | tvhdr type => exact exec_does_of_feedsBytes (.tvhdr type) ⟨fun _ => rfl, rfl, nofun⟩ s
  | tlvhdr reserved type length => exact exec_does_of_feedsBytes (.tlvhdr reserved type length) ⟨fun _ => rfl, rfl, nofun⟩ s
  | custmsgBody vendor subtype tail => exact exec_does_of_feedsBytes (.custmsgBody vendor subtype tail) ⟨fun _ => rfl, rfl, nofun⟩ s
  | custparBody vendor subtype tail => exact exec_does_of_feedsBytes (.custparBody vendor subtype tail) ⟨fun _ => rfl, rfl, nofun⟩ s
  | _ => cases hi

/-! ## Every operation -/

/-- R358: every instruction in every state answers a next state. -/
theorem exec_does (i : Instr) (s : State) : ∃ t, exec i s = .next t ∧ Does s i t := by
  cases hi : unitOf i with
  | whole =>
    cases i with
    | reset => exact ⟨_, rfl, .ok _ .reset⟩
    | _ => cases hi
  | decodeSide => exact exec_decodeSide_does i hi s
  | encodeSide => exact exec_encodeSide_does i hi s
  | reassembler => exact exec_reassembler_does i hi s

theorem does_of_exec {i : Instr} {s t : State} (h : exec i s = .next t) : Does s i t := by
  obtain ⟨u, hu, hdoes⟩ := exec_does i s
  rw [h, Host.Outcome.next.injEq] at hu
  rwa [hu]

end Sys2Proof.Machine
end

section
/-! PROOFS. 10_state.md sections 2 to 5, 47_reassembler.md R291, R301, R304, R305 and 60_exceptions.md R346, R348: what every
instruction keeps, from what an instruction can do. -/

namespace Sys2Proof.Machine

/-! ## Statuses -/

/-- R333: three statuses are numbered and never raised. -/
theorem marked_is_raised {i : Instr} {st : Status} (h : st ∈ marked i) :
    st ≠ .malformedField ∧ st ≠ .protocolError ∧ st ≠ .timeout := by
  refine ⟨?_, ?_, ?_⟩ <;> rintro rfl <;> cases i <;> simp [marked] at h

/-- R346: an intake is taken, is discarded or ends in a framing fault. -/
theorem FeedsBytes.status {i : Instr} {bytes : List Byte} (h : FeedsBytes i bytes) (s : State) :
    (feedChunk bytes s).status = .ok ∨ (feedChunk bytes s).status ∈ marked i := by
  rw [h.marked_eq]
  rcases feedChunk_cases bytes s with ⟨_, e⟩ | ⟨hst, _⟩ | ⟨hst, _⟩
  · rw [e]
    exact .inr (.tail _ (.head _))
  · rw [hst]
    exact .inr (.head _)
  · exact .inl hst

/-- Settles O55: the status of each of the three things that an instruction can do. -/
theorem statusesStayInsideMatrix : Obligations.StatusesStayInsideMatrix := by
  intro i s
  obtain ⟨t, ht, hdoes⟩ := exec_does i s
  obtain ⟨r, hr, hst⟩ : ∃ r, t.resp = some r ∧ (r.status = .ok ∨ r.status ∈ marked i) := by
    cases hdoes with
    | ok results _ => exact ⟨_, rfl, .inl rfl⟩
    | failed info hst _ _ => exact ⟨_, rfl, .inr hst⟩
    | fed h results => exact ⟨_, rfl, h.status s⟩
  refine ⟨t, r, ht, hr, hst, ?_⟩
  rcases hst with hok | hmarked
  · simp [hok]
  · exact marked_is_raised hmarked

/-! ## Failures -/

/-- R298: a byte that ends in a framing fault leaves the body buffer alone. -/
theorem feedByte_body_of_fault {b : Byte} {s : State} (h : (feedByte b s).status = .framingFault) :
    (feedByte b s).state.mbuf = s.mbuf ∧ (feedByte b s).state.mlen = s.mlen := by
  rcases feedByte_cases b s with ⟨_, e⟩ | ⟨_, _, e⟩ | ⟨_, _, e⟩ | ⟨_, _, e⟩ | ⟨_, _, e⟩ <;> rw [e] at h ⊢
  case inr.inr.inl =>
    rcases finishHeader_cases (s.hdr.setIfInBounds s.hcnt b) s with ⟨c, _, e⟩ | ⟨_, _, e⟩ | ⟨_, _, e⟩ <;> rw [e] at h ⊢
    · exact ⟨rfl, rfl⟩
    all_goals cases h
  all_goals cases h

/-- R298: a framing fault leaves everything but the reassembler's variables and `rout`. -/
theorem Faulted.frame {i : Instr} {s t : State} (hi : unitOf i = .reassembler) (ht : exec i s = .next t)
    (h : Faulted t) :
    t = { s with
      rstate := .closed, hdr := t.hdr, hcnt := 0, mbuf := t.mbuf, mlen := t.mlen, rout := t.rout, resp := t.resp } := by
  obtain ⟨-, -, -, hframe, -⟩ := operationsChangeOnlyTheirUnit i s t ht
  rw [← h.rstate, ← h.hcnt]
  exact hframe hi

/-- Settles O59: what each of the three things that an instruction can do leaves when it fails. -/
theorem failuresChangeOnlyWhatTheyMay : Obligations.FailuresChangeOnlyWhatTheyMay := by
  intro i s t r ht hr hne
  cases does_of_exec ht with
  | ok results _ =>
    cases hr
    exact absurd rfl hne
  | failed info hst hnofault hleft =>
    cases hr
    rcases hleft with rfl | ⟨hcomposite, cur, hle, _, rfl⟩
    · exact ⟨fun _ => rfl, fun h => absurd h hnofault, fun _ _ => ⟨rfl, rfl⟩, le_rfl, fun h => absurd rfl h⟩
    · exact ⟨fun _ => rfl, fun h => absurd h hnofault, fun _ _ => ⟨rfl, rfl⟩, hle, fun _ => hcomposite⟩
  | @fed bytes hfed results =>
    cases hr
    rcases feedChunk_cases bytes s with ⟨_, e⟩ | ⟨hst, hfault⟩ | ⟨hst, _⟩
    · rw [e]
      exact ⟨fun _ => rfl, nofun, fun _ _ => ⟨rfl, rfl⟩, le_rfl, fun h => absurd rfl h⟩
    · have hframe := Faulted.frame rfl ((hfed.exec_eq s).symm.trans ht) ⟨hfault.rstate, hfault.hcnt⟩
      have hdcur := congrArg State.dcur hframe
      refine ⟨fun h => absurd hst h, fun _ => hframe, fun b hb => ?_, hdcur.ge, fun h => absurd hdcur h⟩
      rw [hfed.bytes_eq b hb, feedChunk_singleton] at hst ⊢
      exact feedByte_body_of_fault hst
    · exact absurd hst hne

/-! ## The invariants -/

section
variable {s t : State} {i : Instr}

/-- A failure changes nothing that a success could not. -/
theorem Left.done (h : Left s i t) : Done s i t := by
  rcases h with rfl | ⟨-, hmoved⟩
  · exact .reported i
  · exact hmoved.done i

/-- But for the response, an instruction does what a success can do, or takes bytes in. -/
theorem Does.done_or_fed (h : Does s i t) :
    ∃ u r, t = u.setResp r ∧ (Done s i u ∨ ∃ bytes, u = (feedChunk bytes s).state) := by
  cases h with
  | ok results h => exact ⟨_, _, rfl, .inl h⟩
  | failed info _ _ h => exact ⟨_, _, rfl, .inl h.done⟩
  | fed _ results => exact ⟨_, _, rfl, .inr ⟨_, rfl⟩⟩

theorem Done.cfg (h : Done s i t) : t.cfg = s.cfg := by
  cases h <;> rfl

theorem Done.rout (h : Done s i t) : t.rout = s.rout := by
  cases h <;> rfl

/-- R291, R301: outside an intake the reassembler stays as it is, or is emptied. -/
theorem Done.reassemblerOk (h : Done s i t) (hok : reassemblerOk s = true) : reassemblerOk t = true := by
  cases h with
  | reset | opened | closed => rfl
  | _ => exact hok

/-- R22, R25: the buffers stay in canonical form. -/
theorem Done.memory_wf (h : Done s i t) (hwf : Memory.wf s = true) : Memory.wf t = true := by
  cases h with
  | reported => exact hwf
  | reset =>
    rw [Memory.wf_iff]
    exact ⟨rfl, le_rfl, exceeds_zero _, exceeds_zero _⟩
  | loaded hfits => exact setDbuf_memory_wf hwf hfits
  | moved _ hcur => exact setDcur_memory_wf hwf (hcur ((Memory.wf_iff s).mp hwf).2.1)
  | wrote _ hfits => exact setEbits_memory_wf hwf (hfits ((Memory.wf_iff s).mp hwf).2.2.2)
  | opened | closed => exact hwf

theorem feedChunk_cfg (bytes : List Byte) (s : State) : (feedChunk bytes s).state.cfg = s.cfg := by
  rw [← feedChunk_onto_self]
  rfl

theorem feedChunk_memory_wf (bytes : List Byte) (s : State) :
    Memory.wf (feedChunk bytes s).state = Memory.wf s := by
  rw [← feedChunk_onto_self]
  rfl

/-- The response and what the host has still to issue are no part of the invariant. -/
theorem inv_setResp {r : Response} : Inv (s.setResp r) ↔ Inv s := Iff.rfl

theorem inv_setPending {rest : List Item} : Inv (s.setPending rest) ↔ Inv s := Iff.rfl

theorem Does.inv (h : Does s i t) (hinv : Inv s) : Inv t := by
  obtain ⟨hcfg, hwf, hok⟩ := hinv
  obtain ⟨u, r, rfl, hdone | ⟨bytes, rfl⟩⟩ := h.done_or_fed <;> rw [inv_setResp]
  · exact ⟨hdone.cfg ▸ hcfg, hdone.memory_wf hwf, hdone.reassemblerOk hok⟩
  · exact ⟨feedChunk_cfg bytes s ▸ hcfg, feedChunk_memory_wf bytes s ▸ hwf, (feedChunk_conserves bytes hok).ok⟩

/-- R304: what was put out stays whole, and an intake puts out whole messages. -/
theorem Does.emittedOk (h : Does s i t) (hinv : Inv s) (hemitted : EmittedOk s) : EmittedOk t := by
  obtain ⟨-, -, hok⟩ := hinv
  obtain ⟨u, r, rfl, hdone | ⟨bytes, rfl⟩⟩ := h.done_or_fed <;> intro m hm <;>
    rw [State.setResp_rout] at hm <;> rw [State.setResp_cfg]
  · rw [hdone.rout] at hm
    rw [hdone.cfg]
    exact hemitted m hm
  · rw [feedChunk_rout, List.mem_append] at hm
    rw [feedChunk_cfg]
    exact hm.elim (hemitted m) ((feedChunk_conserves bytes hok).whole m)

/-- R295, R305: a closed reassembler stays closed and puts out nothing, but by `R.OPEN` and `RESET`. -/
theorem Does.of_closed (h : Does s i t) (hclosed : s.rstate = .closed) (hi : i ≠ .rOpen ∧ i ≠ .reset) :
    t.rout = s.rout ∧ t.rstate = .closed := by
  obtain ⟨hopen, hreset⟩ := hi
  obtain ⟨u, r, rfl, hdone | ⟨bytes, rfl⟩⟩ := h.done_or_fed
  · refine ⟨hdone.rout, ?_⟩
    cases hdone with
    | reset => exact absurd rfl hreset
    | opened => exact absurd rfl hopen
    | closed => rfl
    | _ => exact hclosed
  · rw [feedChunk_of_closed bytes hclosed]
    exact ⟨rfl, hclosed⟩

end

/-- Settles O42: the two operations as they are, and what leaves `Closed` (R291, R301). -/
theorem openAndCloseEmptyReassembler : Obligations.OpenAndCloseEmptyReassembler := by
  refine fun s => ⟨⟨_, rfl, rfl⟩, ⟨_, rfl, rfl⟩, fun i t hclosed ht hne => ?_⟩
  by_contra hi
  exact hne ((does_of_exec ht).of_closed hclosed (not_or.mp hi)).2

/-- Settles O51: one operation after another (R305). -/
theorem framingFaultIsFinal : Obligations.FramingFaultIsFinal := by
  intro s ops hclosed hops
  induction ops generalizing s with
  | nil => exact ⟨[], s, rfl, rfl, hclosed⟩
  | cons i ops ih =>
    obtain ⟨hi, hrest⟩ := List.forall_mem_cons.mp hops
    obtain ⟨t, ht, hdoes⟩ := exec_does i s
    obtain ⟨hrout, hclosed'⟩ := hdoes.of_closed hclosed hi
    obtain ⟨rs, u, hrun, hrout', hstate⟩ := ih t hclosed' hrest
    exact ⟨_, u, runOps_cons ht hrun, hrout'.trans hrout, hstate⟩

/-! ## Steps -/

/-- R73, R103, R357: a step holds the state, answers that what was issued is no operation, or runs an instruction. -/
theorem step_cases {s t : State} (h : step s = .next t) :
    t = s ∨ (∃ rest r, t = (s.setPending rest).setResp r) ∨ ∃ i rest, exec i (s.setPending rest) = .next t := by
  cases hpending : s.pending with
  | nil =>
    rw [step_of_idle hpending, Host.Outcome.next.injEq] at h
    exact .inl h.symm
  | cons item rest =>
    cases hitem : decode item with
    | ok i =>
      rw [step_of_decode_ok hpending hitem] at h
      exact .inr (.inr ⟨i, rest, h⟩)
    | error e =>
      rw [step_of_decode_error hpending hitem] at h
      cases e with
      | illegalOp op =>
        cases h
        exact .inr (.inl ⟨rest, _, rfl⟩)
      | notALayout nbits w => cases h

/-- Settles O53: the invariant does not speak of what a step takes from the host, and every instruction keeps it. -/
theorem everyStepKeepsInvariant : Obligations.EveryStepKeepsInvariant := by
  intro s t hinv hstep
  rcases step_cases hstep with rfl | ⟨rest, r, rfl⟩ | ⟨i, rest, hexec⟩
  · exact hinv
  · exact inv_setResp.mpr (inv_setPending.mpr hinv)
  · exact (does_of_exec hexec).inv (inv_setPending.mpr hinv)

/-- Settles O49: so does every instruction keep the messages put out whole (R304). -/
theorem emittedMessagesStayValid : Obligations.EmittedMessagesStayValid := by
  intro s t hinv hemitted hstep
  rcases step_cases hstep with rfl | ⟨rest, r, rfl⟩ | ⟨i, rest, hexec⟩
  · exact hemitted
  · exact hemitted
  · exact (does_of_exec hexec).emittedOk (inv_setPending.mpr hinv) hemitted

/-- R10, R11: the configuration at reset meets its constraints, whatever its open values are. -/
theorem instantiated_wf : Config.instantiated.wf = true := by
  have hlt := Config.maxMsgLenAboveTen.isLt
  have hleast : 10 ≤ Config.instantiated.maxMsgLen := Nat.le_add_right 10 _
  have hmost : Config.instantiated.maxMsgLen ≤ 2 ^ 32 - 1 := by
    change 10 + Config.maxMsgLenAboveTen.val ≤ _
    omega
  rw [Config.wf, decide_eq_true hleast, decide_eq_true hmost]
  rfl

/-- Settles O54: the configuration, the empty buffers and the empty reassembler; nothing has been put out. -/
theorem resetStateHasInvariant : Obligations.ResetStateHasInvariant :=
  ⟨⟨instantiated_wf, reset_memory_wf, rfl⟩, nofun⟩

end Sys2Proof.Machine
end

section
/-! PROOFS. 60_exceptions.md R346, from right to left: operands and a state for each marked cell of the status matrix. -/

namespace Sys2Proof.Machine

/-- An operation of the code of `i` answers the status (R346). -/
def Reached (i : Instr) (st : Status) : Prop :=
  ∃ (j : Instr) (s t : State) (r : Response), opCode j = opCode i ∧ exec j s = .next t ∧ t.resp = some r ∧ r.status = st

/-- The status that an operation answers. -/
def statusOf (i : Instr) (s : State) : Option Status :=
  match exec i s with
  | .next t => t.resp.map Response.status
  | .fault _ => none
  | .refused _ => none

theorem reached_by {i : Instr} {st : Status} (j : Instr) (s : State) (hop : opCode j = opCode i)
    (h : statusOf j s = some st) : Reached i st := by
  obtain ⟨t, ht, -⟩ := exec_does j s
  simp only [statusOf, ht, Option.map_eq_some_iff] at h
  obtain ⟨r, hr, hst⟩ := h
  exact ⟨j, s, t, r, hop, ht, hr, hst⟩

/-- The operands make no difference. -/
theorem reached_in {i : Instr} {st : Status} (s : State) (h : statusOf i s = some st) : Reached i st :=
  reached_by i s rfl h

/-! ## States to reach the statuses in -/

/-- Bits in `DBUF`, the cursor at their start. -/
def holding (bits : List Bool) : State := State.reset.setDbuf bits 0

/-- Bits in `EBUF`. -/
def writing (bits : List Bool) : State := State.reset.setEbits bits

/-- Buffers that can hold nothing. -/
def full : State :=
  { State.reset with cfg := { Config.instantiated with dcapBits := some 0, ecapBits := some 0 } }

/-- Zero bits. -/
def zeros (n : Nat) : List Bool := List.replicate n false

/-- Nine zero bytes of a header, whose version will be refused. -/
def nineOfTen : State := { State.reset with hcnt := 9 }

/-- A closed reassembler. -/
def shut : State := { State.reset with rstate := .closed }

theorem elen_writing_zeros (n : Nat) : (writing (zeros n)).elen = n :=
  List.length_replicate

/-- R263, R269: a structure of whole bytes can be too long for its length field. -/
theorem reached_by_patch {i j : Instr} {hdrBits w greatest : Nat} (hop : opCode j = opCode i)
    (hexec : ∀ s, exec j s = (patchLength hdrBits w greatest 0 s).respond) (h : hdrBits ≤ 8 * (greatest + 1)) :
    Reached i .overflow := by
  have hlen := elen_writing_zeros (8 * (greatest + 1))
  refine ⟨j, writing (zeros (8 * (greatest + 1))), ?_⟩
  rw [hexec]
  rcases patchLength_cases hdrBits w greatest 0 (writing (zeros (8 * (greatest + 1)))) with
    ⟨hshort, _⟩ | ⟨_, hodd, _⟩ | ⟨_, _, _, e⟩ | ⟨_, _, hfits, _⟩
  · omega
  · omega
  · rw [e]
    exact ⟨_, _, hop, rfl, rfl, rfl⟩
  · omega

/-! ## The rows -/

/-- A row of the matrix, cell by cell. -/
theorem reached_of_row {i : Instr} (h : List.Forall (Reached i) (.ok :: marked i)) {st : Status}
    (hst : st = .ok ∨ st ∈ marked i) : Reached i st :=
  List.forall_iff_forall_mem.mp h st (List.mem_cons.mpr hst)

/-- Settles O56: row by row. -/
theorem everyMarkedStatusIsReached : Obligations.EveryMarkedStatusIsReached := by
  intro i st hop hst
  refine reached_of_row ?_ hst
  cases i with
  | reset | dTell | eNew | eTell | rOpen | rClose | rStat => exact reached_in State.reset rfl
  | dLoad bytes => exact And.intro (reached_by (.dLoad []) full rfl rfl) (reached_by (.dLoad [0]) full rfl rfl)
  | dSeek off => exact And.intro (reached_by (.dSeek 0) State.reset rfl rfl) (reached_by (.dSeek 1) State.reset rfl rfl)
  | eRead => exact And.intro (reached_in State.reset rfl) (reached_in (writing [false]) rfl)
  | dBool | dU8 | dU16 | dS16 | dU32 | dS32 | dU64 | dS64 =>
    exact And.intro (reached_in (holding (zeros 64)) rfl) (reached_in State.reset rfl)
  | dBits w =>
    exact And.intro (reached_by (.dBits 1) (holding (zeros 1)) rfl rfl) <|
      And.intro (reached_by (.dBits 1) State.reset rfl rfl) (reached_by (.dBits 0) State.reset rfl rfl)
  | eBool val | eU8 val | eU16 val | eS16 val | eU32 val | eS32 val | eU64 val | eS64 val =>
    exact And.intro (reached_in State.reset rfl) (reached_in full rfl)
  | eBits w val =>
    exact And.intro (reached_by (.eBits 1 0) State.reset rfl rfl) <|
      And.intro (reached_by (.eBits 0 0) State.reset rfl rfl) (reached_by (.eBits 1 0) full rfl rfl)
  | dArr8 n =>
    exact And.intro (reached_by (.dArr8 0) State.reset rfl rfl) (reached_by (.dArr8 1) State.reset rfl rfl)
  | dArr16 n =>
    exact And.intro (reached_by (.dArr16 0) State.reset rfl rfl) (reached_by (.dArr16 1) State.reset rfl rfl)
  | dStr n =>
    exact And.intro (reached_by (.dStr 0) State.reset rfl rfl) (reached_by (.dStr 1) State.reset rfl rfl)
  | dBitv n =>
    exact And.intro (reached_by (.dBitv 0) State.reset rfl rfl) (reached_by (.dBitv 1) State.reset rfl rfl)
  | dOpaque endOff =>
    exact And.intro (reached_by (.dOpaque 0) State.reset rfl rfl) <|
      And.intro (reached_by (.dOpaque 1) State.reset rfl rfl) <|
      And.intro (reached_by (.dOpaque 0) (State.reset.setDbuf (zeros 8) 8) rfl rfl)
        (reached_by (.dOpaque 1) (holding (zeros 8)) rfl rfl)
  | eArr8 bytes =>
    exact And.intro (reached_in State.reset rfl) (reached_by (.eArr8 [0]) full rfl rfl)
  | eArr16 words =>
    exact And.intro (reached_in State.reset rfl) (reached_by (.eArr16 [0]) full rfl rfl)
  | eStr bytes =>
    exact And.intro (reached_in State.reset rfl) (reached_by (.eStr [0]) full rfl rfl)
  | eBitv bits =>
    exact And.intro (reached_in State.reset rfl) (reached_by (.eBitv [false]) full rfl rfl)
  | dMsghdr exp =>
    exact And.intro (reached_by (.dMsghdr 0) (holding (msghdrBits 0 0 0 10 0)) rfl rfl) <|
      And.intro (reached_by (.dMsghdr 0) State.reset rfl rfl) <|
      And.intro (reached_by (.dMsghdr 0) (holding (msghdrBits 0 0 0 11 0)) rfl rfl) <|
      And.intro (reached_by (.dMsghdr 0) (holding (msghdrBits 0 0 0 0 0)) rfl rfl) <|
      And.intro (reached_by (.dMsghdr 1) (holding (zeros 16)) rfl rfl)
        (reached_by (.dMsghdr 1024) State.reset rfl rfl)
  | dMsgend endOff =>
    exact And.intro (reached_by (.dMsgend 0) State.reset rfl rfl) (reached_by (.dMsgend 1) State.reset rfl rfl)
  | dParhdr =>
    exact And.intro (reached_in (holding (tlvhdrBits 0 0 4)) rfl) <|
      And.intro (reached_in State.reset rfl) (reached_in (holding (tlvhdrBits 0 0 0)) rfl)
  | dParend endOff =>
    exact And.intro (reached_by (.dParend 0) State.reset rfl rfl) (reached_by (.dParend 1) State.reset rfl rfl)
  | dCustmsg endOff =>
    exact And.intro (reached_by (.dCustmsg 40) (holding (zeros 40)) rfl rfl) <|
      And.intro (reached_by (.dCustmsg 0) State.reset rfl rfl) <|
      And.intro (reached_by (.dCustmsg 0) (holding (zeros 40)) rfl rfl)
        (reached_by (.dCustmsg 41) (holding (zeros 48)) rfl rfl)
  | dCustpar endOff =>
    exact And.intro (reached_by (.dCustpar 64) (holding (zeros 64)) rfl rfl) <|
      And.intro (reached_by (.dCustpar 0) State.reset rfl rfl) <|
      And.intro (reached_by (.dCustpar 0) (holding (zeros 64)) rfl rfl)
        (reached_by (.dCustpar 65) (holding (zeros 72)) rfl rfl)
  | eMsghdr ver type id =>
    exact And.intro (reached_by (.eMsghdr 0 0 0) State.reset rfl rfl) <|
      And.intro (reached_by (.eMsghdr 8 0 0) State.reset rfl rfl) (reached_by (.eMsghdr 0 0 0) full rfl rfl)
  | eMsglen start =>
    exact And.intro (reached_by (.eMsglen 0) (writing (zeros 80)) rfl rfl) <|
      And.intro (reached_by (.eMsglen 0) State.reset rfl rfl) <|
      And.intro (reached_by (.eMsglen 0) (writing (zeros 81)) rfl rfl)
        (reached_by_patch (j := .eMsglen 0) rfl (fun _ => rfl) (by decide))
  | eTvhdr type =>
    exact And.intro (reached_by (.eTvhdr 0) State.reset rfl rfl) <|
      And.intro (reached_by (.eTvhdr 128) State.reset rfl rfl) (reached_by (.eTvhdr 0) full rfl rfl)
  | eTlvhdr type =>
    exact And.intro (reached_by (.eTlvhdr 0) State.reset rfl rfl) <|
      And.intro (reached_by (.eTlvhdr 1024) State.reset rfl rfl) (reached_by (.eTlvhdr 0) full rfl rfl)
  | eTlvlen start =>
    exact And.intro (reached_by (.eTlvlen 0) (writing (zeros 32)) rfl rfl) <|
      And.intro (reached_by (.eTlvlen 0) State.reset rfl rfl) <|
      And.intro (reached_by (.eTlvlen 0) (writing (zeros 33)) rfl rfl)
        (reached_by_patch (j := .eTlvlen 0) rfl (fun _ => rfl) (by decide))
  | eCustmsg vendor subtype bytes =>
    exact And.intro (reached_by (.eCustmsg 0 0 []) State.reset rfl rfl) <|
      And.intro (reached_by (.eCustmsg 0 256 []) State.reset rfl rfl) (reached_by (.eCustmsg 0 0 []) full rfl rfl)
  | eCustpar vendor subtype bytes =>
    exact And.intro (reached_by (.eCustpar 0 0 []) State.reset rfl rfl) <|
      And.intro (reached_by (.eCustpar 0 4294967296 []) State.reset rfl rfl) (reached_by (.eCustpar 0 0 []) full rfl rfl)
  | rFeed b =>
    exact And.intro (reached_in State.reset rfl) <|
      And.intro (reached_by (.rFeed 0) nineOfTen rfl rfl) (reached_in shut rfl)
  | rFeedn bytes =>
    exact And.intro (reached_by (.rFeedn []) State.reset rfl rfl) <|
      And.intro (reached_by (.rFeedn [0]) nineOfTen rfl rfl) (reached_in shut rfl)
  | msghdr | tvhdr | tlvhdr | custmsgBody | custparBody => exact absurd rfl hop

end Sys2Proof.Machine
end
